-- ==== Sys2Proof/Word.lean ====
section
/-! DEFINITION. The word types of the CHIP-8 core (00_scope.md R8, R9, R10). -/

namespace Sys2Proof

/-- A byte: one `V` register, one timer, one memory cell (R30). -/
abbrev Byte := BitVec 8

/-- A 16-bit word: `I`, `PC`, a stack entry, an instruction word (R30, R90). -/
abbrev Word := BitVec 16

/-- A general-register index 0..15 (R32). -/
abbrev Reg := Fin 16

/-- `VF`, the register that doubles as the flag (R33). -/
abbrev VF : Reg := 15

end Sys2Proof
end

