-- ==== Sys2Proof/Syntax.lean ====
section
/-! DEFINITION. The 34 instructions: one constructor per row of the opcode map (30_encoding.md R101). -/

namespace Sys2Proof

/-- An instruction with its operands as the executor uses them (R94).
`x`, `y`: register indices. `nn`: the 8-bit immediate. `nnn`: the 12-bit address, already zero-extended
to the 16 bits it has in `PC` and `I`. `n`: the row count of `Dxyn`. -/
inductive Instr where
  /-- `00E0` clear the framebuffer (R241). -/
  | cls
  /-- `00EE` return (R140). -/
  | ret
  /-- `1nnn` jump (R141). -/
  | jp (nnn : Word)
  /-- `2nnn` call (R142). -/
  | call (nnn : Word)
  /-- `3xnn` skip if `V[x] = nn` (R144). -/
  | seImm (x : Reg) (nn : Byte)
  /-- `4xnn` skip if `V[x] ≠ nn` (R145). -/
  | sneImm (x : Reg) (nn : Byte)
  /-- `5xy0` skip if `V[x] = V[y]` (R146). -/
  | seReg (x y : Reg)
  /-- `6xnn` load immediate (R170). -/
  | ldImm (x : Reg) (nn : Byte)
  /-- `7xnn` add immediate, no flag (R171). -/
  | addImm (x : Reg) (nn : Byte)
  /-- `8xy0` assign (R172). -/
  | ldReg (x y : Reg)
  /-- `8xy1` (R173). -/
  | or (x y : Reg)
  /-- `8xy2` (R174). -/
  | and (x y : Reg)
  /-- `8xy3` (R175). -/
  | xor (x y : Reg)
  /-- `8xy4` add with carry (R176). -/
  | addReg (x y : Reg)
  /-- `8xy5` subtract (R177). -/
  | sub (x y : Reg)
  /-- `8xy6` shift right by one (R178). -/
  | shr (x y : Reg)
  /-- `8xy7` reverse subtract (R179). -/
  | subn (x y : Reg)
  /-- `8xyE` shift left by one (R180). -/
  | shl (x y : Reg)
  /-- `9xy0` skip if `V[x] ≠ V[y]` (R147). -/
  | sneReg (x y : Reg)
  /-- `Annn` load the address register (R210). -/
  | ldI (nnn : Word)
  /-- `Bnnn` jump to `V[0] + nnn` (R143). -/
  | jpV0 (nnn : Word)
  /-- `Cxnn` masked random byte (R181). -/
  | rnd (x : Reg) (nn : Byte)
  /-- `Dxyn` draw an 8 × n sprite (R242). -/
  | drw (x y : Reg) (n : Nat)
  /-- `Ex9E` skip if key `V[x]` is down (R260). -/
  | skp (x : Reg)
  /-- `ExA1` skip if key `V[x]` is up (R261). -/
  | sknp (x : Reg)
  /-- `Fx07` read the delay timer (R262). -/
  | ldVxDt (x : Reg)
  /-- `Fx0A` wait for a key (R263). -/
  | ldVxK (x : Reg)
  /-- `Fx15` set the delay timer (R264). -/
  | ldDtVx (x : Reg)
  /-- `Fx18` set the sound timer (R265). -/
  | ldStVx (x : Reg)
  /-- `Fx1E` add to the address register (R211). -/
  | addIVx (x : Reg)
  /-- `Fx29` font glyph address (R212). -/
  | ldFVx (x : Reg)
  /-- `Fx33` store BCD (R213). -/
  | ldBVx (x : Reg)
  /-- `Fx55` store `V[0]..V[x]` (R214). -/
  | ldMemVx (x : Reg)
  /-- `Fx65` load `V[0]..V[x]` (R215). -/
  | ldVxMem (x : Reg)
  deriving DecidableEq, Repr

end Sys2Proof
end

