-- ==== Sys2Proof/WellFormed.lean ====
section
/-! DEFINITION. Which instruction terms a 16-bit word can hold (30_encoding.md R94, R95). -/

namespace Sys2Proof

/-- `nnn` is a 12-bit address (R94). -/
abbrev fits12 (nnn : Word) : Bool := decide (nnn.toNat < 0x1000)

/-- `n` is a 4-bit count 0..15 (R94): no sprite of 16 rows exists (R245). -/
abbrev fits4 (n : Nat) : Bool := decide (n < 16)

/-- The operands fit their encoding fields. Register indices and `nn` fit by their types. -/
def Instr.wf : Instr → Bool
  | .jp nnn | .call nnn | .ldI nnn | .jpV0 nnn => fits12 nnn
  | .drw _ _ n => fits4 n
  | .cls | .ret => true
  | .seImm _ _ | .sneImm _ _ | .ldImm _ _ | .addImm _ _ | .rnd _ _ => true
  | .seReg _ _ | .sneReg _ _ | .ldReg _ _ | .or _ _ | .and _ _ | .xor _ _ => true
  | .addReg _ _ | .sub _ _ | .shr _ _ | .subn _ _ | .shl _ _ => true
  | .skp _ | .sknp _ | .ldVxDt _ | .ldVxK _ | .ldDtVx _ | .ldStVx _ => true
  | .addIVx _ | .ldFVx _ | .ldBVx _ | .ldMemVx _ | .ldVxMem _ => true

end Sys2Proof
end

