-- ==== Sys2Proof/Decode.lean ====
section
/-! DEFINITION. The decoder, total on every word and every byte string, and after it the encoder and the
opcode map (30_encoding.md). -/

namespace Sys2Proof

/-! ## Fields (R91) -/

/-- `op = word[15:12]`, the instruction family. -/
def opField (w : Word) : BitVec 4 := w.extractLsb' 12 4

/-- `x = word[11:8]`, shifted down to 0..15 (R93). -/
def xField (w : Word) : BitVec 4 := w.extractLsb' 8 4

/-- `y = word[7:4]`, shifted down to 0..15 (R93). -/
def yField (w : Word) : BitVec 4 := w.extractLsb' 4 4

/-- `n = word[3:0]`. -/
def nField (w : Word) : BitVec 4 := w.extractLsb' 0 4

/-- `nn = word[7:0]`. -/
def nnField (w : Word) : Byte := w.extractLsb' 0 8

/-- `nnn = word[11:0]`. -/
def nnnField (w : Word) : BitVec 12 := w.extractLsb' 0 12

/-- A 4-bit field read as a register index (R32, R93). -/
def regOf (f : BitVec 4) : Reg := ⟨f.toNat, f.isLt⟩

/-- A 12-bit address zero-extended to 16 bits (R94). -/
def addrOf (f : BitVec 12) : Word := f.setWidth 16

/-! ## Decoding -/

/-- Why a byte string is no instruction. -/
inductive Reject where
  /-- The word matches no row of the opcode map (R102). -/
  | unknownOpcode (word : Word)
  /-- Fewer than two bytes are left (R90). -/
  | truncated
  deriving DecidableEq, Repr

/-- Family 8: `n` selects the operation (R97). -/
def decodeAlu (w : Word) : Except Reject Instr :=
  let x := regOf (xField w)
  let y := regOf (yField w)
  match (nField w).toNat with
  | 0x0 => .ok (.ldReg x y)
  | 0x1 => .ok (.or x y)
  | 0x2 => .ok (.and x y)
  | 0x3 => .ok (.xor x y)
  | 0x4 => .ok (.addReg x y)
  | 0x5 => .ok (.sub x y)
  | 0x6 => .ok (.shr x y)
  | 0x7 => .ok (.subn x y)
  | 0xE => .ok (.shl x y)
  | _ => .error (.unknownOpcode w)

/-- Family F: `nn` selects the operation (R99). -/
def decodeMisc (w : Word) : Except Reject Instr :=
  let x := regOf (xField w)
  match (nnField w).toNat with
  | 0x07 => .ok (.ldVxDt x)
  | 0x0A => .ok (.ldVxK x)
  | 0x15 => .ok (.ldDtVx x)
  | 0x18 => .ok (.ldStVx x)
  | 0x1E => .ok (.addIVx x)
  | 0x29 => .ok (.ldFVx x)
  | 0x33 => .ok (.ldBVx x)
  | 0x55 => .ok (.ldMemVx x)
  | 0x65 => .ok (.ldVxMem x)
  | _ => .error (.unknownOpcode w)

/-- The two-level dispatch of R96: first by `op`, then by the exact word in family 0 (R96), by `n` in
families 5, 8 and 9 (R97, R100), by `nn` in families E and F (R98, R99). -/
def decodeWord (w : Word) : Except Reject Instr :=
  let x := regOf (xField w)
  let y := regOf (yField w)
  let nn := nnField w
  let nnn := addrOf (nnnField w)
  match (opField w).toNat with
  | 0x0 =>
    if w = 0x00E0#16 then .ok .cls
    else if w = 0x00EE#16 then .ok .ret
    else .error (.unknownOpcode w)
  | 0x1 => .ok (.jp nnn)
  | 0x2 => .ok (.call nnn)
  | 0x3 => .ok (.seImm x nn)
  | 0x4 => .ok (.sneImm x nn)
  | 0x5 => if nField w = 0#4 then .ok (.seReg x y) else .error (.unknownOpcode w)
  | 0x6 => .ok (.ldImm x nn)
  | 0x7 => .ok (.addImm x nn)
  | 0x8 => decodeAlu w
  | 0x9 => if nField w = 0#4 then .ok (.sneReg x y) else .error (.unknownOpcode w)
  | 0xA => .ok (.ldI nnn)
  | 0xB => .ok (.jpV0 nnn)
  | 0xC => .ok (.rnd x nn)
  | 0xD => .ok (.drw x y (nField w).toNat)
  | 0xE =>
    if nn = 0x9E#8 then .ok (.skp x)
    else if nn = 0xA1#8 then .ok (.sknp x)
    else .error (.unknownOpcode w)
  | _ => decodeMisc w  -- op is 4 bits wide, so this is family F

/-- The instruction word of two consecutive bytes, big-endian (R63; 92 D2). -/
def wordOfBytes (hi lo : Byte) : Word := hi ++ lo

/-- The byte a word stores at the lower address (R63). -/
def hiByte (w : Word) : Byte := w.extractLsb' 8 8

/-- The byte a word stores at the higher address (R63). -/
def loByte (w : Word) : Byte := w.extractLsb' 0 8

/-- Decode the first instruction of a byte string and hand back the rest (R90: two bytes each). -/
def decodeBytes : List Byte → Except Reject (Instr × List Byte)
  | hi :: lo :: rest =>
    match decodeWord (wordOfBytes hi lo) with
    | .ok i => .ok (i, rest)
    | .error e => .error e
  | _ => .error .truncated

/-- The word an opcode-table row's bits stand for: bit 0 is the least significant bit of the one word. -/
def tableWord (nbits w : Nat) : Word := BitVec.ofNat 16 (w % 2 ^ nbits)

/-- What the decoder reads from an instruction whose bits, numbered as the opcode table numbers them, are `w`. -/
def decodeTableWord (nbits w : Nat) : Option Instr :=
  match decodeBytes [hiByte (tableWord nbits w), loByte (tableWord nbits w)] with
  | .ok (i, _) => some i
  | .error _ => none

/-! ## Encoding, from the formats of R95 and the identity of R92 -/

/-- Formats `XY` and `XYN`: `word = op·0x1000 + x·0x100 + y·0x10 + n` (R92). -/
def wordXYN (op : Nat) (x y : Reg) (n : Nat) : Word :=
  BitVec.ofNat 16 (op * 0x1000 + x.val * 0x100 + y.val * 0x10 + n % 16)

/-- Formats `XNN` and `X`: `op·0x1000 + x·0x100 + nn` (R92, R95). -/
def wordXNN (op : Nat) (x : Reg) (nn : Byte) : Word :=
  BitVec.ofNat 16 (op * 0x1000 + x.val * 0x100 + nn.toNat)

/-- Format `NNN`: `op·0x1000 + nnn` (R92, R95). -/
def wordNNN (op : Nat) (nnn : Word) : Word :=
  BitVec.ofNat 16 (op * 0x1000 + nnn.toNat % 0x1000)

/-- The word of an instruction (R101). -/
def encode : Instr → Word
  | .cls => 0x00E0#16
  | .ret => 0x00EE#16
  | .jp nnn => wordNNN 0x1 nnn
  | .call nnn => wordNNN 0x2 nnn
  | .seImm x nn => wordXNN 0x3 x nn
  | .sneImm x nn => wordXNN 0x4 x nn
  | .seReg x y => wordXYN 0x5 x y 0x0
  | .ldImm x nn => wordXNN 0x6 x nn
  | .addImm x nn => wordXNN 0x7 x nn
  | .ldReg x y => wordXYN 0x8 x y 0x0
  | .or x y => wordXYN 0x8 x y 0x1
  | .and x y => wordXYN 0x8 x y 0x2
  | .xor x y => wordXYN 0x8 x y 0x3
  | .addReg x y => wordXYN 0x8 x y 0x4
  | .sub x y => wordXYN 0x8 x y 0x5
  | .shr x y => wordXYN 0x8 x y 0x6
  | .subn x y => wordXYN 0x8 x y 0x7
  | .shl x y => wordXYN 0x8 x y 0xE
  | .sneReg x y => wordXYN 0x9 x y 0x0
  | .ldI nnn => wordNNN 0xA nnn
  | .jpV0 nnn => wordNNN 0xB nnn
  | .rnd x nn => wordXNN 0xC x nn
  | .drw x y n => wordXYN 0xD x y n
  | .skp x => wordXNN 0xE x 0x9E#8
  | .sknp x => wordXNN 0xE x 0xA1#8
  | .ldVxDt x => wordXNN 0xF x 0x07#8
  | .ldVxK x => wordXNN 0xF x 0x0A#8
  | .ldDtVx x => wordXNN 0xF x 0x15#8
  | .ldStVx x => wordXNN 0xF x 0x18#8
  | .addIVx x => wordXNN 0xF x 0x1E#8
  | .ldFVx x => wordXNN 0xF x 0x29#8
  | .ldBVx x => wordXNN 0xF x 0x33#8
  | .ldMemVx x => wordXNN 0xF x 0x55#8
  | .ldVxMem x => wordXNN 0xF x 0x65#8

/-! ## The opcode map as data (R101) -/

/-- One row of the map: a word `w` is the instruction when `w & mask = fixed`. -/
structure OpcodeRow where
  fixed : Word
  mask : Word
  deriving DecidableEq, Repr

/-- Whether a word belongs to a row. -/
abbrev OpcodeRow.holds (r : OpcodeRow) (w : Word) : Prop := w &&& r.mask = r.fixed

/-- The row of the map an instruction belongs to. -/
def rowOf : Instr → OpcodeRow
  | .cls => ⟨0x00E0#16, 0xFFFF#16⟩
  | .ret => ⟨0x00EE#16, 0xFFFF#16⟩
  | .jp _ => ⟨0x1000#16, 0xF000#16⟩
  | .call _ => ⟨0x2000#16, 0xF000#16⟩
  | .seImm _ _ => ⟨0x3000#16, 0xF000#16⟩
  | .sneImm _ _ => ⟨0x4000#16, 0xF000#16⟩
  | .seReg _ _ => ⟨0x5000#16, 0xF00F#16⟩
  | .ldImm _ _ => ⟨0x6000#16, 0xF000#16⟩
  | .addImm _ _ => ⟨0x7000#16, 0xF000#16⟩
  | .ldReg _ _ => ⟨0x8000#16, 0xF00F#16⟩
  | .or _ _ => ⟨0x8001#16, 0xF00F#16⟩
  | .and _ _ => ⟨0x8002#16, 0xF00F#16⟩
  | .xor _ _ => ⟨0x8003#16, 0xF00F#16⟩
  | .addReg _ _ => ⟨0x8004#16, 0xF00F#16⟩
  | .sub _ _ => ⟨0x8005#16, 0xF00F#16⟩
  | .shr _ _ => ⟨0x8006#16, 0xF00F#16⟩
  | .subn _ _ => ⟨0x8007#16, 0xF00F#16⟩
  | .shl _ _ => ⟨0x800E#16, 0xF00F#16⟩
  | .sneReg _ _ => ⟨0x9000#16, 0xF00F#16⟩
  | .ldI _ => ⟨0xA000#16, 0xF000#16⟩
  | .jpV0 _ => ⟨0xB000#16, 0xF000#16⟩
  | .rnd _ _ => ⟨0xC000#16, 0xF000#16⟩
  | .drw _ _ _ => ⟨0xD000#16, 0xF000#16⟩
  | .skp _ => ⟨0xE09E#16, 0xF0FF#16⟩
  | .sknp _ => ⟨0xE0A1#16, 0xF0FF#16⟩
  | .ldVxDt _ => ⟨0xF007#16, 0xF0FF#16⟩
  | .ldVxK _ => ⟨0xF00A#16, 0xF0FF#16⟩
  | .ldDtVx _ => ⟨0xF015#16, 0xF0FF#16⟩
  | .ldStVx _ => ⟨0xF018#16, 0xF0FF#16⟩
  | .addIVx _ => ⟨0xF01E#16, 0xF0FF#16⟩
  | .ldFVx _ => ⟨0xF029#16, 0xF0FF#16⟩
  | .ldBVx _ => ⟨0xF033#16, 0xF0FF#16⟩
  | .ldMemVx _ => ⟨0xF055#16, 0xF0FF#16⟩
  | .ldVxMem _ => ⟨0xF065#16, 0xF0FF#16⟩

/-- The 34 rows in the map's order. -/
def opcodeMap : List OpcodeRow :=
  [rowOf .cls, rowOf .ret, rowOf (.jp 0), rowOf (.call 0), rowOf (.seImm 0 0), rowOf (.sneImm 0 0),
   rowOf (.seReg 0 0), rowOf (.ldImm 0 0), rowOf (.addImm 0 0)] ++
  [rowOf (.ldReg 0 0), rowOf (.or 0 0), rowOf (.and 0 0), rowOf (.xor 0 0), rowOf (.addReg 0 0),
   rowOf (.sub 0 0), rowOf (.shr 0 0), rowOf (.subn 0 0), rowOf (.shl 0 0), rowOf (.sneReg 0 0)] ++
  [rowOf (.ldI 0), rowOf (.jpV0 0), rowOf (.rnd 0 0), rowOf (.drw 0 0 0), rowOf (.skp 0), rowOf (.sknp 0)] ++
  [rowOf (.ldVxDt 0), rowOf (.ldVxK 0), rowOf (.ldDtVx 0), rowOf (.ldStVx 0), rowOf (.addIVx 0),
   rowOf (.ldFVx 0), rowOf (.ldBVx 0), rowOf (.ldMemVx 0), rowOf (.ldVxMem 0)]

end Sys2Proof
end

