-- ==== Sys2Proof/Config.lean ====
section
/-! DEFINITION. What one implementation fixes (the named parameters of 00_scope.md R8) and the one free value. -/

namespace Sys2Proof

/-- `SHIFT_SOURCE`: the register `8xy6` and `8xyE` shift (R8, R178, R180; 92 D8). -/
inductive ShiftSource where
  /-- Shift `V[x]` in place and ignore `y`: this spec's decided value. -/
  | vx
  /-- Shift `V[y]` into `V[x]`: the named alternative. -/
  | vy
  deriving DecidableEq, Repr

/-- The parameters of R8 that are not fixed and that a rule reads.
State carries one (log entry 1), so every claim about all states holds for every choice of them. -/
structure Config where
  /-- `FONT`: the 80 bytes `Reset` loads at 0x000 (R81). -/
  font : Vector Byte 80
  /-- `SHIFT_SOURCE` (R178, R180). -/
  shiftSource : ShiftSource
  deriving DecidableEq, Repr

/-- The random draws the host leaves open: the draw of the `k`-th `Cxnn` whose `Cycle` was given no
explicit `rnd`. A FREE VALUE (R128; 92 D15): nothing constrains it (log entry 2). -/
opaque Config.draw : Nat → Byte

end Sys2Proof
end

