-- ==== Sys2Proof/Machine/Font.lean ====
section
/-! DEFINITION. The default values of the parameters: the conventional font of 20_memory.md R81 and the
decided `SHIFT_SOURCE` of 92_eei_decisions.md D8. -/

namespace Sys2Proof.Machine

/-- Glyphs 0..7, five bytes each. -/
def fontLow : List Byte :=
  [0xF0, 0x90, 0x90, 0x90, 0xF0, 0x20, 0x60, 0x20, 0x20, 0x70,
   0xF0, 0x10, 0xF0, 0x80, 0xF0, 0xF0, 0x10, 0xF0, 0x10, 0xF0] ++
  [0x90, 0x90, 0xF0, 0x10, 0x10, 0xF0, 0x80, 0xF0, 0x10, 0xF0,
   0xF0, 0x80, 0xF0, 0x90, 0xF0, 0xF0, 0x10, 0x20, 0x40, 0x40]

/-- Glyphs 8..F, five bytes each. -/
def fontHigh : List Byte :=
  [0xF0, 0x90, 0xF0, 0x90, 0xF0, 0xF0, 0x90, 0xF0, 0x10, 0xF0,
   0xF0, 0x90, 0xF0, 0x90, 0x90, 0xE0, 0x90, 0xE0, 0x90, 0xE0] ++
  [0xF0, 0x80, 0x80, 0x80, 0xF0, 0xE0, 0x90, 0x90, 0x90, 0xE0,
   0xF0, 0x80, 0xF0, 0x80, 0xF0, 0xF0, 0x80, 0xF0, 0x80, 0x80]

/-- The default `FONT`, glyph `d` at `5·d` (R80, R81). PRESUMED by the spec itself
([from general knowledge, not in source]; log entry 3): claims about glyph shapes hold under it only. -/
def defaultFont : Vector Byte 80 := ⟨⟨fontLow ++ fontHigh⟩, rfl⟩

/-- The default parameters (log entries 3 and 4). -/
def defaultConfig : Config := { font := defaultFont, shiftSource := .vx }

end Sys2Proof.Machine
end

