-- ==== Sys2Proof/Machine/State.lean ====
section
/-! DEFINITION. The machine's state as plain data (10_state.md R30), its faults and its reset (R48). -/

namespace Sys2Proof.Machine

/-- The fatal faults of 60_exceptions.md R300. Taking one is a NEXT state whose `status` is `Halted(f)`
(R309; log entry 6), so no step answers `Outcome.fault`: these names stand in the fault record. All are
safe: the spec gives each of them. -/
inductive Fault where
  /-- Raised by the fetch, `Dxyn`, `Fx33`, `Fx55` and `Fx65` on an address ≥ 4096 (R301). Safe. -/
  | memoryFault
  /-- Of the taxonomy, raised by nothing: a `Reg` is always 0..15 (R35, R302). Safe. -/
  | registerFault
  /-- Raised by `2nnn` when `SP = 16` (R303). Safe. -/
  | stackOverflow
  /-- Raised by `00EE` when `SP = 0` (R304). Safe. -/
  | stackUnderflow
  /-- Raised by `Ex9E` and `ExA1` when `V[x] > 15` (R266, R305). Safe. -/
  | invalidKeyIndex
  deriving DecidableEq, Repr

/-- Why `exec` has no meaning for an instruction. -/
inductive Refusal where
  /-- Raised by an arm of `exec` whose instruction has no meaning yet; no arm is left so. Safe. -/
  | notModelled (mnemonic : String)
  deriving DecidableEq, Repr

/-- A fault record `(name, pc, word, info)` (R310). -/
structure FaultRecord where
  name : Fault
  /-- The `PC` of the cycle that faulted. -/
  pc : Word
  /-- The instruction word, or none for a fetch fault. -/
  word : Option Word
  /-- The address, `SP` or `V[x]`, as R310 lists. -/
  info : Nat
  deriving DecidableEq, Repr

/-- The run status (R43). -/
inductive Status where
  | running
  | halted (f : FaultRecord)
  deriving DecidableEq, Repr

/-- The framebuffer: 32 rows of 64 one-bit pixels, row-major (R42, R240). -/
abbrev Framebuffer := Vector (Vector Bool 64) 32

/-- Memory: the bytes that differ from what `Reset` leaves, in one canonical form (log entry 10). -/
abbrev Memory := List Host.Cell

/-- The state of R30, and three fields of the model's own: `cfg`, `rndIn`, `draws`. -/
structure State where
  /-- The model's own: the parameters of R8, never changed (log entry 1). -/
  cfg : Config
  /-- `V[0]`..`V[15]` (R32). -/
  v : Vector Byte 16
  /-- `I`, the address register (R36). -/
  i : Word
  /-- `PC` (R37). -/
  pc : Word
  /-- `S[0]`..`S[15]`, the return addresses (R38). -/
  stack : Vector Word 16
  /-- `SP`, the number of occupied stack entries, 0..16 (R39). -/
  sp : Fin 17
  /-- `DT`, the delay timer (R40). -/
  dt : Byte
  /-- `ST`, the sound timer (R41). -/
  st : Byte
  /-- `M` (R42, R60). -/
  mem : Memory
  /-- `FB` (R42, R240). -/
  fb : Framebuffer
  /-- `K[0]`..`K[15]`, true when the key is down (R11, R42). -/
  keys : Vector Bool 16
  /-- `status` (R43). -/
  status : Status
  /-- `dirty` (R44). -/
  dirty : Bool
  /-- The model's own: the `rnd` given to the `Cycle` in progress; none leaves it open (log entry 2). -/
  rndIn : Option Byte
  /-- The model's own: how many open draws were taken, so that each is a fresh free value (log entry 2). -/
  draws : Nat
  deriving DecidableEq, Repr

/-- A framebuffer with every pixel dark. -/
def Framebuffer.dark : Framebuffer := Vector.replicate 32 (Vector.replicate 64 false)

/-- The state `Reset` leaves under given parameters (R48, R400). Memory lists nothing: an unlisted address
reads as its reset contents. -/
def State.boot (c : Config) : State where
  cfg := c
  v := Vector.replicate 16 0#8
  i := 0#16
  pc := 0x200#16
  stack := Vector.replicate 16 0#16
  sp := 0
  dt := 0#8
  st := 0#8
  mem := []
  fb := Framebuffer.dark
  keys := Vector.replicate 16 false
  status := .running
  dirty := true
  rndIn := none
  draws := 0

/-- The machine right after reset, under the default parameters. -/
def State.reset : State := State.boot defaultConfig

end Sys2Proof.Machine
end

