-- ==== Sys2Proof/Machine/Flags.lean ====
section
/-! DEFINITION. Every flag computation: what the flag-writing instructions put in VF (10_state.md R47). -/

namespace Sys2Proof.Machine

/-- A flag as VF holds it: 0 or 1 (R33). -/
def flagByte (b : Bool) : Byte := if b then 1#8 else 0#8

/-- `8xy4`: the exact sum exceeds 255 (R176). -/
def carryOf (a b : Byte) : Bool := decide (a.toNat + b.toNat > 255)

/-- `8xy5` and `8xy7`: the minuend is STRICTLY greater (R177, R179; 90_conflicts.md C4). -/
def greaterOf (a b : Byte) : Bool := decide (a.toNat > b.toNat)

/-- `8xy6`: bit 0 before the shift (R178). -/
def lowBitOf (s : Byte) : Bool := s.getLsbD 0

/-- `8xyE`: bit 7 before the shift (R180). -/
def highBitOf (s : Byte) : Bool := s.getLsbD 7

/-- `Fx1E`: the exact sum exceeds 0xFFF (R211; 92 D9). -/
def indexOverflow (t : Nat) : Bool := decide (t > 0xFFF)

end Sys2Proof.Machine
end

