-- ==== Sys2Proof/Machine/Ops.lean ====
section
/-! DEFINITION. The named operations over registers, memory, stack, framebuffer and keypad, and taking a
fault, which the meanings share. -/

namespace Sys2Proof.Machine

/-- What a meaning answers. -/
abbrev Result := Host.Outcome State Fault Refusal

/-! ## Updates of one piece of state -/

/-- `V[x]` (R11). -/
def State.reg (s : State) (x : Reg) : Byte := s.v[x.val]

/-- `V[x] <- b` (R11). -/
def State.setReg (s : State) (x : Reg) (b : Byte) : State := { s with v := s.v.set x.val b }

/-- `V[15] <- b` as a flag: 0 or 1 (R33, R47). -/
def State.setFlag (s : State) (b : Bool) : State := s.setReg VF (flagByte b)

/-- All of `V` at once (`Fx65`). -/
def State.setRegs (s : State) (v : Vector Byte 16) : State := { s with v := v }

/-- `I <- w`. -/
def State.setI (s : State) (w : Word) : State := { s with i := w }

/-- `PC <- w` (R11). -/
def State.setPc (s : State) (w : Word) : State := { s with pc := w }

/-- The default `PC <- PC + 2` (R123). -/
def State.advance (s : State) : State := s.setPc (s.pc + 2#16)

/-- A skip (R148): over one word when the condition holds, else to the next word. -/
def State.skipIf (s : State) (c : Bool) : State := s.setPc (if c then s.pc + 4#16 else s.pc + 2#16)

/-- `DT <- b`. -/
def State.setDt (s : State) (b : Byte) : State := { s with dt := b }

/-- `ST <- b`. -/
def State.setSt (s : State) (b : Byte) : State := { s with st := b }

/-- `FB <- f`. -/
def State.setFb (s : State) (f : Framebuffer) : State := { s with fb := f }

/-- `dirty <- b`. -/
def State.setDirty (s : State) (b : Bool) : State := { s with dirty := b }

/-- `K <- k`. -/
def State.setKeys (s : State) (k : Vector Bool 16) : State := { s with keys := k }

/-- `status <- t`. -/
def State.setStatus (s : State) (t : Status) : State := { s with status := t }

/-- `M <- m`. -/
def State.setMem (s : State) (m : Memory) : State := { s with mem := m }

/-! ## Memory (20_memory.md) -/

/-- `InRange(a)` (R12, R61). -/
abbrev InRange (a : Nat) : Prop := a < 4096

/-- What an address reads as that memory does not list: its reset contents, the font at 0x000..0x04F and 0
above (R48, R400). Past 0xFFF there are no contents: the 0 there is the model's choice (DESIGN CHOICE, log
entry 13). -/
def resetByte (c : Config) (a : Nat) : Byte := if h : a < 80 then c.font[a] else 0#8

/-- The listed byte at an address. -/
def Memory.lookup : Memory → Nat → Option Byte
  | [], _ => none
  | (k, b) :: rest, a => if k = a then some b else Memory.lookup rest a

/-- `M[a]`, with what is not listed at its reset contents (R62). R12 defines the read for `a < 4096` only; past
that this function still answers, a listed byte or else 0, by the model's choice (DESIGN CHOICE, log entry
13), and no rule applies it there (R82). -/
def Memory.read (c : Config) (m : Memory) (a : Nat) : Byte := (Memory.lookup m a).getD (resetByte c a)

/-- List a byte in its place by address. -/
def Memory.insert : Memory → Nat → Byte → Memory
  | [], a, b => [(a, b)]
  | (k, v) :: rest, a, b =>
    if a < k then (a, b) :: (k, v) :: rest
    else if a = k then (a, b) :: rest
    else (k, v) :: Memory.insert rest a b

/-- Take an address off the list. -/
def Memory.erase : Memory → Nat → Memory
  | [], _ => []
  | (k, v) :: rest, a => if k = a then Memory.erase rest a else (k, v) :: Memory.erase rest a

/-- `M[a] <- b` (R62), keeping the canonical form. It is never applied out of range (R82); there it writes
nothing (log entry 13). -/
def Memory.write (c : Config) (m : Memory) (a : Nat) (b : Byte) : Memory :=
  if a < 4096 then
    if b = resetByte c a then Memory.erase m a else Memory.insert m a b
  else m

/-- Addresses strictly rise from `lo` on. -/
def Memory.risesFrom : Nat → Memory → Bool
  | _, [] => true
  | lo, (k, _) :: rest => decide (lo ≤ k) && Memory.risesFrom (k + 1) rest

/-- The canonical form: addresses strictly rising and in range, no entry equal to its reset contents. -/
def Memory.wf (c : Config) (m : Memory) : Bool :=
  Memory.risesFrom 0 m && m.all fun e => decide (e.1 < 4096) && decide (e.2 ≠ resetByte c e.1)

/-- `MemRead(a, 1)` (R12, R62), total by the model's choice for `a ≥ 4096` (log entry 13). -/
def State.byteAt (s : State) (a : Nat) : Byte := Memory.read s.cfg s.mem a

/-- `MemWrite(a, 1, b)` (R12, R62). -/
def State.setByte (s : State) (a : Nat) (b : Byte) : State := s.setMem (Memory.write s.cfg s.mem a b)

/-- Byte writes in increasing address order (R70). -/
def State.setBytes (s : State) (base : Nat) : List Byte → State
  | [] => s
  | b :: bs => (s.setByte base b).setBytes (base + 1) bs

/-- The lowest address of `base .. base+n-1` that is out of range (R73; 92 D32). -/
def firstOutOfRange (base : Nat) : Nat → Option Nat
  | 0 => none
  | n + 1 => if base < 4096 then firstOutOfRange (base + 1) n else some base

/-- `V` after `V[j] <- MemRead(base + j, 1)` for `j` in `0 .. n-1` (R215). -/
def State.loadedRegs (s : State) (base : Nat) : Nat → Vector Byte 16
  | 0 => s.v
  | j + 1 => (s.loadedRegs base j).setIfInBounds j (s.byteAt (base + j))

/-! ## Taking a fault (60_exceptions.md R309, R310) -/

/-- Take the fatal fault `name`: `status <- Halted((name, PC, word, info))` and nothing else is written.
This stands in place of a trap entry; there is no vector, no handler and no saved state (R311), and the
only way back is `Reset` (R313). -/
def raise (name : Fault) (word : Option Word) (info : Nat) (s : State) : Result :=
  .next (s.setStatus (.halted { name := name, pc := s.pc, word := word, info := info }))

/-- The check of every memory instruction, before any byte is read or written (R73): the bytes
`base .. base+n-1` are in range, or `MemoryFault` on the lowest that is not. -/
def withRange (base n : Nat) (i : Instr) (s : State) (k : Result) : Result :=
  match firstOutOfRange base n with
  | some a => raise .memoryFault (some (encode i)) a s
  | none => k

/-! ## Results of the arithmetic -/

/-- Write a result and go on (42_alu.md). -/
def writeReg (x : Reg) (b : Byte) (s : State) : Result := .next (s.setReg x b).advance

/-- Write the result, then the flag, so that VF ends as the flag (R184; 92 D7). -/
def writeRegFlag (x : Reg) (b : Byte) (f : Bool) (s : State) : Result :=
  .next ((s.setReg x b).setFlag f).advance

/-! ## The stack (R39) -/

/-- `S[SP] <- w; SP <- SP + 1` on a stack with room. -/
def State.push (s : State) (w : Word) (h : s.sp.val < 16) : State :=
  { s with stack := s.stack.set s.sp.val w h, sp := ⟨s.sp.val + 1, Nat.succ_lt_succ h⟩ }

/-- `S[j]` (R11). -/
def State.stackAt (s : State) (j : Fin 16) : Word := s.stack[j.val]

/-- `SP <- SP - 1; PC <- S[SP]`, applied to a stack that is not empty (R140). The entry keeps its value
(92 D21). -/
def State.pop (s : State) : State :=
  { s with sp := ⟨s.sp.val - 1, by omega⟩, pc := s.stack[s.sp.val - 1]'(by omega) }

/-! ## The framebuffer (44_display.md) -/

/-- `FB[r][c]`. -/
def Framebuffer.pixel (f : Framebuffer) (r : Fin 32) (c : Fin 64) : Bool := (f[r.val])[c.val]

/-- `FB[r][c] <- FB[r][c] ^ 1`. -/
def Framebuffer.flip (f : Framebuffer) (r : Fin 32) (c : Fin 64) : Framebuffer :=
  f.set r.val ((f[r.val]).set c.val (!f.pixel r c))

/-- `FB[r][c]` of a state. -/
def State.pixel (s : State) (r : Fin 32) (c : Fin 64) : Bool := s.fb.pixel r c

/-- Row `(cy + b) mod 32` (R242). -/
def rowAt (cy b : Nat) : Fin 32 := ⟨(cy + b) % 32, Nat.mod_lt _ (by decide)⟩

/-- Column `(cx + k) mod 64` (R242). -/
def colAt (cx k : Nat) : Fin 64 := ⟨(cx + k) % 64, Nat.mod_lt _ (by decide)⟩

/-- A drawing in progress: the framebuffer and `collide`. -/
structure Drawing where
  fb : Framebuffer
  collide : Bool
  deriving DecidableEq, Repr

/-- One sprite bit: `k = 0` is the most significant bit of the row byte, the leftmost pixel (R242, R245). -/
def Drawing.bit (cx cy b : Nat) (row : Byte) (d : Drawing) (k : Nat) : Drawing :=
  if row.getLsbD (7 - k) then
    { fb := d.fb.flip (rowAt cy b) (colAt cx k)
      collide := d.collide || d.fb.pixel (rowAt cy b) (colAt cx k) }
  else d

/-- One sprite row: bits `k = 0 .. 7` in order. -/
def Drawing.row (cx cy b : Nat) (row : Byte) (d : Drawing) : Drawing :=
  (List.range 8).foldl (Drawing.bit cx cy b row) d

/-- The whole sprite: rows `b = 0 .. n-1` in order, read from `base + b` (R242). -/
def State.drawSprite (s : State) (cx cy base n : Nat) : Drawing :=
  (List.range n).foldl (fun d b => Drawing.row cx cy b (s.byteAt (base + b)) d)
    { fb := s.fb, collide := false }

/-! ## The keypad -/

/-- The sixteen key indices in order. -/
def keyIndices : List (Fin 16) := [0, 1, 2, 3, 4, 5, 6, 7, 8, 9, 10, 11, 12, 13, 14, 15]

/-- `K[k]`. -/
def State.key (s : State) (k : Fin 16) : Bool := s.keys[k.val]

/-- `min { k | K[k] = 1 }`, none when every key is up (R263; 92 D14). -/
def State.lowestKeyDown (s : State) : Option (Fin 16) := keyIndices.find? fun k => s.key k

/-- Test the key that `V[x]` names, or `InvalidKeyIndex(V[x])` when there is no such key (R266; 92 D13). -/
def withKey (x : Reg) (i : Instr) (s : State) (k : Bool → Result) : Result :=
  if h : (s.reg x).toNat < 16 then k (s.key ⟨(s.reg x).toNat, h⟩)
  else raise .invalidKeyIndex (some (encode i)) (s.reg x).toNat s

/-! ## The draw -/

/-- The byte `Cxnn` draws: the `rnd` given to this `Cycle`, or else a free value (R120, R128). -/
def State.drawn (s : State) : Byte := s.rndIn.getD (Config.draw s.draws)

/-- Use the draw up, so that the next one is a fresh one. -/
def State.takeDraw (s : State) : State := { s with rndIn := none, draws := s.draws + 1 }

/-! ## The fetch and the unknown word -/

/-- The instruction fetch: both addresses checked, `PC` first, then the big-endian word; or the first
address out of range (R63, R65, R122). It changes nothing. -/
def State.fetch (s : State) : Except Nat Word :=
  match firstOutOfRange s.pc.toNat 2 with
  | some a => .error a
  | none => .ok (wordOfBytes (s.byteAt s.pc.toNat) (s.byteAt (s.pc.toNat + 1)))

/-- `report UnknownOpcode(word); PC <- PC + 2` (R306): the report itself is the `Cycle` result. -/
def skipUnknown (s : State) : Result := .next s.advance

end Sys2Proof.Machine
end

