-- ==== Sys2Proof/Machine/Operands.lean ====
section
/-! DEFINITION. Every operand form: which register a shift reads, computed jump targets, the addresses of the
memory instructions and the sprite coordinates (30_encoding.md R94; 43_index_memory.md R216). -/

namespace Sys2Proof.Machine

/-- The byte `8xy6` and `8xyE` shift: `V[x]` or `V[y]` by `SHIFT_SOURCE` (R178, R180). -/
def State.shiftOperand (s : State) (x y : Reg) : Byte :=
  match s.cfg.shiftSource with
  | .vx => s.reg x
  | .vy => s.reg y

/-- `Bnnn`: `zext_16(V[0]) + zext_16(nnn)` (R143). -/
def State.offsetTarget (s : State) (nnn : Word) : Word := (s.reg 0).setWidth 16 + nnn

/-- The first byte address of the memory instructions: `I` as an exact integer (R61, R216). -/
def State.base (s : State) : Nat := s.i.toNat

/-- `Fx29`: `5 * V[x]`, exact, 0..1275 (R212). -/
def State.glyphAddress (s : State) (x : Reg) : Word := BitVec.ofNat 16 (5 * (s.reg x).toNat)

/-- `Fx1E`: the exact sum `I + V[x]` (R211). -/
def State.indexSum (s : State) (x : Reg) : Nat := s.i.toNat + (s.reg x).toNat

/-- `I` after `Fx55` and `Fx65`: `(I + x + 1) mod 2^16` (R214, R215). -/
def State.indexAfter (s : State) (x : Reg) : Word := BitVec.ofNat 16 (s.i.toNat + x.val + 1)

/-- `V[0] .. V[x]` in order (R214). -/
def State.regsUpTo (s : State) (x : Reg) : List Byte := s.v.toList.take (x.val + 1)

/-- The three decimal digits of `Fx33`, hundreds first (R213). -/
def bcdDigits (v : Byte) : List Byte :=
  [BitVec.ofNat 8 (v.toNat / 100), BitVec.ofNat 8 (v.toNat / 10 % 10), BitVec.ofNat 8 (v.toNat % 10)]

end Sys2Proof.Machine
end

