-- ==== Sys2Proof/Machine/Alu.lean ====
section
/-! DEFINITION. Register loads, arithmetic, logic and the random byte (42_alu.md). -/

namespace Sys2Proof.Machine

/-- `6xnn` (R170). -/
def execLdImm (x : Reg) (nn : Byte) (s : State) : Result := writeReg x nn s

/-- `7xnn` (R171). -/
def execAddImm (x : Reg) (nn : Byte) (s : State) : Result := writeReg x (s.reg x + nn) s

/-- `8xy0` (R172). -/
def execLdReg (x y : Reg) (s : State) : Result := writeReg x (s.reg y) s

/-- `8xy1` (R173). -/
def execOr (x y : Reg) (s : State) : Result := writeReg x (s.reg x ||| s.reg y) s

/-- `8xy2` (R174). -/
def execAnd (x y : Reg) (s : State) : Result := writeReg x (s.reg x &&& s.reg y) s

/-- `8xy3` (R175). -/
def execXor (x y : Reg) (s : State) : Result := writeReg x (s.reg x ^^^ s.reg y) s

/-- `8xy4` (R176). -/
def execAddReg (x y : Reg) (s : State) : Result :=
  writeRegFlag x (s.reg x + s.reg y) (carryOf (s.reg x) (s.reg y)) s

/-- `8xy5` (R177). -/
def execSub (x y : Reg) (s : State) : Result :=
  writeRegFlag x (s.reg x - s.reg y) (greaterOf (s.reg x) (s.reg y)) s

/-- `8xy6` (R178). -/
def execShr (x y : Reg) (s : State) : Result :=
  writeRegFlag x (s.shiftOperand x y >>> 1) (lowBitOf (s.shiftOperand x y)) s

/-- `8xy7` (R179). -/
def execSubn (x y : Reg) (s : State) : Result :=
  writeRegFlag x (s.reg y - s.reg x) (greaterOf (s.reg y) (s.reg x)) s

/-- `8xyE` (R180). -/
def execShl (x y : Reg) (s : State) : Result :=
  writeRegFlag x (s.shiftOperand x y <<< 1) (highBitOf (s.shiftOperand x y)) s

/-- `Cxnn` (R181). -/
def execRnd (x : Reg) (nn : Byte) (s : State) : Result := writeReg x (s.drawn &&& nn) s.takeDraw

end Sys2Proof.Machine
end

