-- ==== Sys2Proof/Machine/Display.lean ====
section
/-! DEFINITION. Clearing the framebuffer and drawing a sprite (44_display.md). -/

namespace Sys2Proof.Machine

/-- `00E0` (R241). -/
def execCls (s : State) : Result := .next ((s.setFb Framebuffer.dark).setDirty true).advance

/-- Put a finished drawing in place: `FB`, `dirty <- 1`, `V[15] <- collide`, `PC <- PC + 2` (R242). -/
def State.finishDraw (s : State) (d : Drawing) : State :=
  (((s.setFb d.fb).setDirty true).setFlag d.collide).advance

/-- `Dxyn` (R242). -/
def execDrw (x y : Reg) (n : Nat) (s : State) : Result :=
  withRange s.base n (.drw x y n) s
    (.next (s.finishDraw (s.drawSprite (s.reg x).toNat (s.reg y).toNat s.base n)))

end Sys2Proof.Machine
end

