-- ==== Sys2Proof/Machine/Flow.lean ====
section
/-! DEFINITION. Control flow: return, jumps, call and skips (41_flow.md). -/

namespace Sys2Proof.Machine

/-- `00EE` (R140). -/
def execRet (s : State) : Result :=
  if s.sp.val = 0 then raise .stackUnderflow (some (encode .ret)) s.sp.val s
  else .next s.pop

/-- `1nnn` (R141). -/
def execJp (nnn : Word) (s : State) : Result := .next (s.setPc nnn)

/-- `2nnn` (R142). -/
def execCall (nnn : Word) (s : State) : Result :=
  if h : s.sp.val < 16 then .next ((s.push (s.pc + 2#16) h).setPc nnn)
  else raise .stackOverflow (some (encode (.call nnn))) s.sp.val s

/-- `Bnnn` (R143). -/
def execJpV0 (nnn : Word) (s : State) : Result := .next (s.setPc (s.offsetTarget nnn))

/-- `3xnn` (R144). -/
def execSeImm (x : Reg) (nn : Byte) (s : State) : Result := .next (s.skipIf (decide (s.reg x = nn)))

/-- `4xnn` (R145). -/
def execSneImm (x : Reg) (nn : Byte) (s : State) : Result := .next (s.skipIf (decide (s.reg x ≠ nn)))

/-- `5xy0` (R146). -/
def execSeReg (x y : Reg) (s : State) : Result := .next (s.skipIf (decide (s.reg x = s.reg y)))

/-- `9xy0` (R147). -/
def execSneReg (x y : Reg) (s : State) : Result := .next (s.skipIf (decide (s.reg x ≠ s.reg y)))

end Sys2Proof.Machine
end

