-- ==== Sys2Proof/Machine/IndexMemory.lean ====
section
/-! DEFINITION. The address register and the memory transfers (43_index_memory.md). -/

namespace Sys2Proof.Machine

/-- `Annn` (R210). -/
def execLdI (nnn : Word) (s : State) : Result := .next (s.setI nnn).advance

/-- `Fx1E` (R211). -/
def execAddIVx (x : Reg) (s : State) : Result :=
  .next ((s.setI (BitVec.ofNat 16 (s.indexSum x))).setFlag (indexOverflow (s.indexSum x))).advance

/-- `Fx29` (R212). -/
def execLdFVx (x : Reg) (s : State) : Result := .next (s.setI (s.glyphAddress x)).advance

/-- `Fx33` (R213). -/
def execLdBVx (x : Reg) (s : State) : Result :=
  withRange s.base 3 (.ldBVx x) s (.next (s.setBytes s.base (bcdDigits (s.reg x))).advance)

/-- `Fx55` (R214). -/
def execLdMemVx (x : Reg) (s : State) : Result :=
  withRange s.base (x.val + 1) (.ldMemVx x) s
    (.next ((s.setBytes s.base (s.regsUpTo x)).setI (s.indexAfter x)).advance)

/-- `Fx65` (R215). -/
def execLdVxMem (x : Reg) (s : State) : Result :=
  withRange s.base (x.val + 1) (.ldVxMem x) s
    (.next ((s.setRegs (s.loadedRegs s.base (x.val + 1))).setI (s.indexAfter x)).advance)

end Sys2Proof.Machine
end

