-- ==== Sys2Proof/Machine/TimersKeys.lean ====
section
/-! DEFINITION. Key tests, the key wait and timer access (45_timers_keys.md). -/

namespace Sys2Proof.Machine

/-- `Ex9E` (R260). -/
def execSkp (x : Reg) (s : State) : Result := withKey x (.skp x) s fun down => .next (s.skipIf down)

/-- `ExA1` (R261). -/
def execSknp (x : Reg) (s : State) : Result := withKey x (.sknp x) s fun down => .next (s.skipIf (!down))

/-- `Fx07` (R262). -/
def execLdVxDt (x : Reg) (s : State) : Result := writeReg x s.dt s

/-- `Fx0A` (R263): with every key up it waits, which changes no state at all. -/
def execLdVxK (x : Reg) (s : State) : Result :=
  match s.lowestKeyDown with
  | none => .next s
  | some k => writeReg x (BitVec.ofNat 8 k.val) s

/-- `Fx15` (R264). -/
def execLdDtVx (x : Reg) (s : State) : Result := .next (s.setDt (s.reg x)).advance

/-- `Fx18` (R265). -/
def execLdStVx (x : Reg) (s : State) : Result := .next (s.setSt (s.reg x)).advance

end Sys2Proof.Machine
end

