-- ==== Sys2Proof/Machine/Cycle.lean ====
section
/-! DEFINITION. The fetch-decode-execute cycle and the result it returns to the host (40_cycle.md), and the
placing of one instruction word where the next fetch reads it. -/

namespace Sys2Proof.Machine

/-- The body of `Cycle` (R120): a halted core changes nothing (R121); a fetch out of range is a
`MemoryFault` with no word (R122); a word of the opcode map is executed; any other word advances `PC` by 2
and does nothing else (R306). -/
def cycle (s : State) : Result :=
  match s.status with
  | .halted _ => .next s
  | .running =>
    match s.fetch with
    | .error a => raise .memoryFault none a s
    | .ok w =>
      match decodeWord w with
      | .ok i => exec i s
      | .error _ => skipUnknown s

/-- The five results of a `Cycle` (R124). -/
inductive CycleResult where
  | executed
  | waiting
  | unknown (word pc : Word)
  | fault (f : FaultRecord)
  | halted (f : FaultRecord)
  deriving DecidableEq, Repr

/-- Whether the instruction ends in `wait`: `Fx0A` with every key up (R263). -/
def waits (i : Instr) (s : State) : Bool :=
  match i with
  | .ldVxK _ => s.lowestKeyDown.isNone
  | _ => false

/-- The result for an instruction that ran from `s` to the status `t`. -/
def resultOfStatus (i : Instr) (s : State) (t : Status) : CycleResult :=
  match t with
  | .halted f => .fault f
  | .running => if waits i s then .waiting else .executed

/-- What the `Cycle` that starts in `s` returns (R124), or the stop of an instruction without a meaning. -/
def cycleResult (s : State) : Host.Outcome CycleResult Fault Refusal :=
  match s.status with
  | .halted f => .next (.halted f)
  | .running =>
    match s.fetch with
    | .error a => .next (.fault { name := .memoryFault, pc := s.pc, word := none, info := a })
    | .ok w =>
      match decodeWord w with
      | .error _ => .next (.unknown w s.pc)
      | .ok i =>
        match exec i s with
        | .next t => .next (resultOfStatus i s t.status)
        | .fault r => .fault r
        | .refused r => .refused r

/-- Where the next fetch can read a whole word: `PC`, or the reset vector when `PC` is past the last
word of memory (log entry 9). -/
def fetchSlot (s : State) : Word := if s.pc.toNat + 1 < 4096 then s.pc else 0x200#16

/-- Store a word where the next fetch reads it, on a core that runs: the load a host does, for one
instruction (log entry 9). -/
def placeWord (s : State) (w : Word) : State :=
  (((s.setPc (fetchSlot s)).setStatus .running).setByte (fetchSlot s).toNat (hiByte w)).setByte
    ((fetchSlot s).toNat + 1) (loByte w)

end Sys2Proof.Machine
end

