-- ==== Sys2Proof/Machine/Step.lean ====
section
/-! DEFINITION. One step of the machine: one `Cycle` whose draw is left open (40_cycle.md R120, R128). -/

namespace Sys2Proof.Machine

/-- One step is one `Cycle`. -/
def step (s : State) : Host.Outcome State Fault Refusal := cycle s

/-- `s` with the one-word instruction of the opcode table stored where `step` fetches next (log entry 9). -/
def State.withFetchWord (s : State) (nbits w : Nat) : State := placeWord s (tableWord nbits w)

end Sys2Proof.Machine
end

