-- ==== Sys2Proof/Machine/HostOps.lean ====
section
/-! DEFINITION. The host operations and the error taxonomy (60_exceptions.md R300, R324; 70_reset_and_hazards.md). -/

namespace Sys2Proof.Machine

/-! ## Error names and codes (R300; 92 D40) -/

/-- Every error outcome of the taxonomy. -/
inductive ErrorName where
  /-- A fatal fault of the core. -/
  | fatal (f : Fault)
  /-- The non-fatal report of a `Cycle` (R306). -/
  | unknownOpcode
  /-- The error result of `LoadProgram` (R307). -/
  | romTooLarge
  /-- The host's own error, which no core operation raises (R308). -/
  | romLoadError
  deriving DecidableEq, Repr

/-- The number of an error name: a label only (92 D40). -/
def ErrorName.code : ErrorName → Nat
  | .fatal .memoryFault => 1
  | .fatal .registerFault => 2
  | .fatal .stackOverflow => 3
  | .fatal .stackUnderflow => 4
  | .fatal .invalidKeyIndex => 5
  | .unknownOpcode => 16
  | .romTooLarge => 32
  | .romLoadError => 33

/-! ## The operations -/

/-- What `Dump` returns: everything of R327, each piece under its own name. -/
structure DumpRecord where
  v : Vector Byte 16
  i : Word
  pc : Word
  stack : Vector Word 16
  sp : Fin 17
  dt : Byte
  st : Byte
  status : Status
  deriving DecidableEq, Repr

/-- The complete list of host operations (R324). -/
inductive HostOp where
  | reset
  | loadProgram (bytes : List Byte)
  | setKey (index : Nat) (pressed : Bool)
  | setKeys (v : Vector Bool 16)
  | cycle (rnd : Byte)
  | tick
  | readFramebuffer
  | ackDisplay
  | dump
  deriving DecidableEq, Repr

/-- What a host operation returns (R324, R332). -/
inductive HostResult where
  | none
  | ok
  | romTooLarge (length : Nat)
  | invalidKeyIndex (index : Nat)
  | cycle (r : CycleResult)
  | cue (emitted : Bool)
  | framebuffer (fb : Framebuffer) (dirty : Bool)
  | dump (d : DumpRecord)
  deriving DecidableEq, Repr

/-- `Reset()` (R400). The parameters are no state and stay; so does the draw counter, so that the draws
after a reset are fresh ones (log entries 1 and 2). -/
def State.resetAll (s : State) : State := { State.boot s.cfg with draws := s.draws }

/-- `LoadProgram(bytes)` (R402, R403). -/
def State.loadProgram (s : State) (bytes : List Byte) : State × HostResult :=
  if bytes.length > 0xE00 then (s, .romTooLarge bytes.length) else (s.setBytes 0x200 bytes, .ok)

/-- `SetKey(index, pressed)` (R322). -/
def State.pressKey (s : State) (index : Nat) (pressed : Bool) : State × HostResult :=
  if h : index < 16 then (s.setKeys (s.keys.set index pressed), .ok) else (s, .invalidKeyIndex index)

/-- One timer's tick: down by 1 if above 0 (R319). -/
def tickTimer (b : Byte) : Byte := if b = 0#8 then 0#8 else b - 1#8

/-- `Tick()`, with the audible cue (R319, R320). -/
def State.tick (s : State) : State × HostResult :=
  ((s.setDt (tickTimer s.dt)).setSt (tickTimer s.st), .cue (decide (s.st = 1#8)))

/-- `Dump()` (R327). -/
def State.dumpRecord (s : State) : DumpRecord :=
  { v := s.v, i := s.i, pc := s.pc, stack := s.stack, sp := s.sp, dt := s.dt, st := s.st, status := s.status }

/-- Put the `rnd` of a `Cycle(rnd)` on the core's input, or take it off. -/
def State.setRndIn (s : State) (r : Option Byte) : State := { s with rndIn := r }

/-- `Cycle(rnd)` (R120): one step with the draw given, and its result (R124). -/
def State.cycleWith (s : State) (rnd : Byte) : Host.Outcome (State × HostResult) Fault Refusal :=
  match step (s.setRndIn (some rnd)), cycleResult (s.setRndIn (some rnd)) with
  | .next t, .next r => .next (t.setRndIn none, .cycle r)
  | .fault r, _ => .fault r
  | .refused r, _ => .refused r
  | .next _, .fault r => .fault r
  | .next _, .refused r => .refused r

/-- One host operation (R324): the state after it and what it returns. -/
def perform (op : HostOp) (s : State) : Host.Outcome (State × HostResult) Fault Refusal :=
  match op with
  | .reset => .next (s.resetAll, .none)
  | .loadProgram bytes => .next (s.loadProgram bytes)
  | .setKey index pressed => .next (s.pressKey index pressed)
  | .setKeys v => .next (s.setKeys v, .ok)
  | .cycle rnd => s.cycleWith rnd
  | .tick => .next s.tick
  | .readFramebuffer => .next (s, .framebuffer s.fb s.dirty)
  | .ackDisplay => .next (s.setDirty false, .none)
  | .dump => .next (s, .dump s.dumpRecord)

/-- A serialized run of host operations, in any order (R317): the last state and every result. -/
def performAll : List HostOp → State → Host.Outcome (State × List HostResult) Fault Refusal
  | [], s => .next (s, [])
  | op :: ops, s =>
    match perform op s with
    | .next (t, r) =>
      match performAll ops t with
      | .next (u, rs) => .next (u, r :: rs)
      | .fault f => .fault f
      | .refused f => .refused f
    | .fault f => .fault f
    | .refused f => .refused f

end Sys2Proof.Machine
end

