-- ==== Sys2Proof/Safety.lean ====
section
/-! DEFINITION. The terms claims are stated in: frames, what an instruction completes with, sprite coverage,
the invariant of every run, and reachability. -/

namespace Sys2Proof.Machine

/-! ## Frames -/

/-- The pieces of state a frame speaks of: those of 10_state.md R30, and the model's own `cfg` and `draw`. -/
inductive Part where
  | cfg | v | i | pc | stack | sp | dt | st | mem | fb | keys | status | dirty | draw
  deriving DecidableEq, Repr

/-- A piece of state reads the same in `t` as in `s`; memory byte by byte, `FB` pixel by pixel. -/
def Part.Same (p : Part) (s t : State) : Prop :=
  match p with
  | .cfg => t.cfg = s.cfg
  | .v => ∀ r, t.reg r = s.reg r
  | .i => t.i = s.i
  | .pc => t.pc = s.pc
  | .stack => ∀ j, t.stackAt j = s.stackAt j
  | .sp => t.sp = s.sp
  | .dt => t.dt = s.dt
  | .st => t.st = s.st
  | .mem => ∀ a, t.byteAt a = s.byteAt a
  | .fb => ∀ r c, t.pixel r c = s.pixel r c
  | .keys => ∀ k, t.key k = s.key k
  | .status => t.status = s.status
  | .dirty => t.dirty = s.dirty
  | .draw => t.rndIn = s.rndIn ∧ t.draws = s.draws

/-- From `s` to `t` nothing changed but the pieces listed. -/
def OnlyChanged (ps : List Part) (s t : State) : Prop := ∀ p, p ∉ ps → p.Same s t

/-- The pieces each instruction may write when it does not fault (files 41 to 45; R36 to R44). -/
def written : Instr → List Part
  | .cls => [.fb, .dirty, .pc]
  | .ret => [.sp, .pc]
  | .call _ => [.stack, .sp, .pc]
  | .jp _ | .jpV0 _ => [.pc]
  | .seImm _ _ | .sneImm _ _ | .seReg _ _ | .sneReg _ _ | .skp _ | .sknp _ => [.pc]
  | .ldImm _ _ | .addImm _ _ | .ldReg _ _ | .or _ _ | .and _ _ | .xor _ _ => [.v, .pc]
  | .addReg _ _ | .sub _ _ | .shr _ _ | .subn _ _ | .shl _ _ => [.v, .pc]
  | .rnd _ _ => [.v, .pc, .draw]
  | .ldI _ | .ldFVx _ => [.i, .pc]
  | .addIVx _ => [.i, .v, .pc]
  | .drw _ _ _ => [.fb, .dirty, .v, .pc]
  | .ldVxDt _ | .ldVxK _ => [.v, .pc]
  | .ldDtVx _ => [.dt, .pc]
  | .ldStVx _ => [.st, .pc]
  | .ldBVx _ => [.mem, .pc]
  | .ldMemVx _ => [.mem, .i, .pc]
  | .ldVxMem _ => [.v, .i, .pc]

/-- The registers each instruction may write: its destination, and VF for the flag writers (R32, R47). -/
def mayWriteReg : Instr → Reg → Bool
  | .ldImm x _ | .addImm x _ | .rnd x _ => fun r => r == x
  | .ldReg x _ | .or x _ | .and x _ | .xor x _ => fun r => r == x
  | .addReg x _ | .sub x _ | .shr x _ | .subn x _ | .shl x _ => fun r => r == x || r == VF
  | .addIVx _ | .drw _ _ _ => fun r => r == VF
  | .ldVxDt x | .ldVxK x => fun r => r == x
  | .ldVxMem x => fun r => decide (r ≤ x)
  | .cls | .ret | .jp _ | .call _ | .jpV0 _ | .ldI _ => fun _ => false
  | .seImm _ _ | .sneImm _ _ | .seReg _ _ | .sneReg _ _ | .skp _ | .sknp _ => fun _ => false
  | .ldDtVx _ | .ldStVx _ | .ldFVx _ | .ldBVx _ | .ldMemVx _ => fun _ => false

/-! ## Words bit by bit, as opcode_table.json writes them -/

/-- Four nibbles, the most significant first. -/
def nibbles (a b c d : BitVec 4) : Word := a ++ b ++ c ++ d

/-- `oooo xxxx nnnnnnnn`. -/
def nibblesByte (op x : BitVec 4) (nn : Byte) : Word := op ++ x ++ nn

/-- `oooo nnnnnnnnnnnn`. -/
def nibbleAddr (op : BitVec 4) (nnn : BitVec 12) : Word := op ++ nnn

/-- The word in memory at `PC`, high byte first (R63). -/
def fetchedWord (s : State) : Word := wordOfBytes (s.byteAt s.pc.toNat) (s.byteAt (s.pc.toNat + 1))

/-! ## What an instruction completes with -/

/-- `i` completes; `PC` becomes `target` and nothing else changes. -/
def GoesTo (i : Instr) (s : State) (target : Word) : Prop :=
  ∃ t, exec i s = .next t ∧ t.pc = target ∧ OnlyChanged [.pc] s t

/-- `i` completes; `V[x]` becomes `b`, every other register keeps its value, `PC` advances by 2 and nothing
else changes. -/
def SetsReg (i : Instr) (s : State) (x : Reg) (b : Byte) : Prop :=
  ∃ t, exec i s = .next t ∧ (∀ r, t.reg r = if r = x then b else s.reg r) ∧ t.pc = s.pc + 2#16 ∧
    OnlyChanged [.v, .pc] s t

/-- As `SetsReg`, and VF ends as the flag `f`, also when `x` is VF. -/
def SetsRegAndFlag (i : Instr) (s : State) (x : Reg) (b f : Byte) : Prop :=
  ∃ t, exec i s = .next t ∧ (∀ r, t.reg r = if r = VF then f else if r = x then b else s.reg r) ∧
    t.pc = s.pc + 2#16 ∧ OnlyChanged [.v, .pc] s t

/-- `i` takes the fatal fault `name` with the record of R310, and changes nothing but `status`. -/
def TakesFault (i : Instr) (word : Word) (s : State) (name : Fault) (info : Nat) : Prop :=
  ∃ t, exec i s = .next t ∧ t.status = .halted ⟨name, s.pc, some word, info⟩ ∧ OnlyChanged [.status] s t

/-- The next cycle of a running core takes a fetch fault at `PC` and changes nothing but `status`. -/
def FetchFaults (s : State) : Prop :=
  ∃ u, step s = .next u ∧ u.status = .halted ⟨.memoryFault, s.pc, none, max s.pc.toNat 4096⟩ ∧
    OnlyChanged [.status] s u

/-- A set bit of the `n`-row sprite at `I` falls on the pixel `(r, c)` when it is drawn at column `cx`, row
`cy`, both taken modulo the screen (R242). -/
def SpriteCovers (s : State) (cx cy : Byte) (n : Nat) (r : Fin 32) (c : Fin 64) : Prop :=
  ∃ b k, b < n ∧ k < 8 ∧ (s.byteAt (s.i.toNat + b)).getLsbD (7 - k) = true ∧
    r.val = (cy.toNat + b) % 32 ∧ c.val = (cx.toNat + k) % 64

/-! ## The invariant of every run -/

/-- A fault record is one that the rules can make, and names the instruction `PC` still points at (R300,
R309, R310): no register fault ever stands in it. -/
def FaultRecord.Legal (f : FaultRecord) (s : State) : Prop :=
  f.pc = s.pc ∧
  match f.name with
  | .memoryFault => 4096 ≤ f.info ∧ f.info ≤ 0xFFFF
  | .registerFault => False
  | .stackOverflow => f.info = 16 ∧ s.sp.val = 16 ∧ f.word.map opField = some 0x2#4
  | .stackUnderflow => f.info = 0 ∧ s.sp.val = 0 ∧ f.word = some 0x00EE#16
  | .invalidKeyIndex => 15 < f.info ∧ f.info < 256 ∧ f.word.map opField = some 0xE#4

/-- The status is `Running`, or `Halted` with a legal record. -/
def Status.Legal (st : Status) (s : State) : Prop :=
  match st with
  | .running => True
  | .halted f => f.Legal s

/-- What holds in every state a run reaches: memory is in canonical form and in range; `PC` is at most 0x10FE
and every stack entry at most 0x1000, so that no `PC` arithmetic wraps (R129); the status is legal. -/
structure Inv (s : State) : Prop where
  memory : Memory.wf s.cfg s.mem = true
  pc : s.pc.toNat ≤ 0x10FE
  stack : ∀ j, (s.stackAt j).toNat ≤ 0x1000
  status : s.status.Legal s

/-- The states that host operations reach from reset under the parameters `c` (R401). -/
inductive Reachable (c : Config) : State → Prop where
  | boot : Reachable c (State.boot c)
  | op {s t : State} {o : HostOp} {r : HostResult} :
      Reachable c s → perform o s = .next (t, r) → Reachable c t

end Sys2Proof.Machine
end

