-- ==== Sys2Proof/Certificates/Slice0/Obligations.lean ====
section
/-! DEFINITION. The statements for the provers. Each is stated over the model's own terms of Safety.lean; a
D-number or log entry in a docstring marks what is the spec's own decision or the model's choice. -/

open Sys2Proof Sys2Proof.Machine

/-- O1: When the core runs, the two bytes at PC are in range and they decode (high byte first: the spec's own decision D2, log 5) to the instruction i, step is exec of i at that same state: the step adds nothing around exec.
(40_cycle.md section Cycle(rnd), 20_memory.md section 2 (byte order: 92 D2, log 5)) -/
def Obligations.StepRunsTheDecodedInstruction : Prop :=
  ∀ (s : State) (i : Instr), s.status = .running → s.pc.toNat + 1 < 4096 →
    decodeBytes [s.byteAt s.pc.toNat, s.byteAt (s.pc.toNat + 1)] = .ok (i, []) → step s = exec i s

/-- O2: One word of each of the sixteen families (the top nibbles 0 to F), written out bit by bit from opcode_table.json, decodes to its instruction with its operands; so does 8126, whose number 6 the spec infers (N4, G3: log 14); and 5121, of no row by conflict choice C3 (log 14), is rejected by name.
(30_encoding.md section 5 (opcode map), 30_encoding.md section 4 (families 5, 8 and 9), 91_not_in_source.md N4, 90_conflicts.md C3) -/
def Obligations.WordsWrittenOutDecode : Prop :=
  decodeWord 0b0000000011100000#16 = .ok .cls ∧
  decodeWord 0b0001001000110100#16 = .ok (.jp 0x234#16) ∧
  decodeWord 0b0010001100000000#16 = .ok (.call 0x300#16) ∧
  decodeWord 0b0011001100010010#16 = .ok (.seImm 3 0x12#8) ∧
  decodeWord 0b0100001100010011#16 = .ok (.sneImm 3 0x13#8) ∧
  decodeWord 0b0101000100100000#16 = .ok (.seReg 1 2) ∧
  decodeWord 0b0110101001000010#16 = .ok (.ldImm 10 0x42#8) ∧
  decodeWord 0b0111000000000001#16 = .ok (.addImm 0 1#8) ∧
  decodeWord 0b1000000000010100#16 = .ok (.addReg 0 1) ∧
  decodeWord 0b1000000100100110#16 = .ok (.shr 1 2) ∧
  decodeWord 0b1001000100100000#16 = .ok (.sneReg 1 2) ∧
  decodeWord 0b1010001100000000#16 = .ok (.ldI 0x300#16) ∧
  decodeWord 0b1011111111111111#16 = .ok (.jpV0 0xFFF#16) ∧
  decodeWord 0b1100001100001111#16 = .ok (.rnd 3 0x0F#8) ∧
  decodeWord 0b1101000100100101#16 = .ok (.drw 1 2 5) ∧
  decodeWord 0b1110000110011110#16 = .ok (.skp 1) ∧
  decodeWord 0b1111001001100101#16 = .ok (.ldVxMem 2) ∧
  decodeWord 0b0101000100100001#16 = .error (.unknownOpcode 0x5121#16)

/-- O3: For every well-formed instruction, with every operand at every value its field admits, decoding its encoded word gives the instruction back, and so does decoding its two bytes, high byte first (D2, log 5), in front of any bytes, which are handed back.
(30_encoding.md section 1, 30_encoding.md section 5) -/
def Obligations.DecodeUndoesEncode : Prop :=
  ∀ (i : Instr) (rest : List Byte), i.wf = true →
    decodeWord (encode i) = .ok i ∧
    decodeBytes (hiByte (encode i) :: loByte (encode i) :: rest) = .ok (i, rest)

/-- O4: Whenever a word decodes to an instruction, that instruction is well-formed and encodes to the very same word, so no bit of a decoded word is dropped.
(30_encoding.md section 1, 30_encoding.md section 5) -/
def Obligations.EncodeUndoesDecode : Prop :=
  ∀ (w : Word) (i : Instr), decodeWord w = .ok i → i.wf = true ∧ encode i = w

/-- O5: The six fields are op=(word>>12)&0xF, x=(word>>8)&0xF, y=(word>>4)&0xF, n=word&0xF, nn=word&0xFF and nnn=word&0xFFF; the word is op*0x1000+x*0x100+y*0x10+n; nn=y*16+n, nnn=x*256+nn and nnn=word&0x0FFF; two words with equal op, x, y and n are equal.
(R91, R92) -/
def Obligations.FieldsAreShiftedAndDetermineTheWord : Prop :=
  ∀ w w' : Word,
    ((opField w).toNat = (w.toNat >>> 12) &&& 0xF ∧ (xField w).toNat = (w.toNat >>> 8) &&& 0xF ∧
      (yField w).toNat = (w.toNat >>> 4) &&& 0xF ∧ (nField w).toNat = w.toNat &&& 0xF ∧
      (nnField w).toNat = w.toNat &&& 0xFF ∧ (nnnField w).toNat = w.toNat &&& 0xFFF) ∧
    w.toNat = (opField w).toNat * 0x1000 + (xField w).toNat * 0x100 + (yField w).toNat * 0x10 +
      (nField w).toNat ∧
    (nnField w).toNat = (yField w).toNat * 16 + (nField w).toNat ∧
    (nnnField w).toNat = (xField w).toNat * 256 + (nnField w).toNat ∧
    ((opField w, xField w, yField w, nField w) = (opField w', xField w', yField w', nField w') → w = w')

/-- O6: The map has 34 rows. A word that a row matches (w & mask = match) decodes, to an instruction of that row; a word that no row matches is rejected as an unknown opcode; no two rows match the same word. The count of 34 is conflict choice C1, the n = 0 of 5xy0 and 9xy0 is C3, and the family-8 numbers but 4 and 5 are the spec's inference (N4, G3): log 14.
(30_encoding.md section 4, 30_encoding.md section 5 (opcode map, unknown words), 90_conflicts.md C1, C3, 91_not_in_source.md N4, 93_implementation_defined.md G3) -/
def Obligations.OpcodeMapDecidesWhatDecodes : Prop :=
  opcodeMap.length = 34 ∧
  ∀ w : Word,
    (∀ r ∈ opcodeMap, r.holds w → ∃ i, decodeWord w = .ok i ∧ rowOf i = r) ∧
    ((∀ r ∈ opcodeMap, ¬ r.holds w) → decodeWord w = .error (.unknownOpcode w)) ∧
    (∀ r ∈ opcodeMap, ∀ r' ∈ opcodeMap, r.holds w → r'.holds w → r = r')

/-- O7: On a running core whose fetched word matches no row of the opcode map, the step advances PC by 2 and changes nothing else; the cycle returns Unknown(word, pc) with the word and its address (the address is decision D20; the word is read high byte first: D2, log 5; which words the map leaves out rests on C1, C3 and N4: log 14).
(60_exceptions.md section 1 (UnknownOpcode), 30_encoding.md section 5, 92_eei_decisions.md D2, D20) -/
def Obligations.UnknownWordOnlyAdvancesPc : Prop :=
  ∀ s : State, s.status = .running → s.pc.toNat + 1 < 4096 →
    (∀ r ∈ opcodeMap, ¬ r.holds (fetchedWord s)) →
    (∃ t, step s = .next t ∧ t.pc = s.pc + 2#16 ∧ OnlyChanged [.pc] s t) ∧
    cycleResult s = .next (.unknown (fetchedWord s) s.pc)

/-- O8: On a running core with PC at 4095 or above, the step takes a MemoryFault on the first address out of range, PC or 4096, with no instruction word in the record (D5, D32), and changes nothing but status.
(40_cycle.md section fetch, 20_memory.md section 2, 92_eei_decisions.md D5, D32) -/
def Obligations.FetchOutOfRangeFaults : Prop :=
  ∀ s : State, s.status = .running → 4096 ≤ s.pc.toNat + 1 →
    FetchFaults s ∧
    cycleResult s = .next (.fault ⟨.memoryFault, s.pc, none, if s.pc.toNat = 4095 then 4096 else s.pc.toNat⟩)

/-- O9: In Halted(f) a step leaves the state as it is and the cycle returns Halted(f) with the same record (decision D6).
(40_cycle.md section Cycle(rnd), 92_eei_decisions.md D6) -/
def Obligations.HaltedCycleChangesNothing : Prop :=
  ∀ (s : State) (f : FaultRecord), s.status = .halted f →
    step s = .next s ∧ cycleResult s = .next (.halted f)

/-- O10: Executed: the core ran and still runs, and the state after is that of exec of the instruction its fetched word decodes to. Waiting: the word is an Fx0A, every key is up and nothing changed. Unknown: the word does not decode, PC advanced by 2 and nothing else changed (D20). Fault(f): nothing is written but status, f records the PC of the cycle and the fetched word, none for a fetch fault (D4, D5). Halted(f): nothing changed (D6). The word is read high byte first (D2, log 5).
(40_cycle.md section results table, 60_exceptions.md section 2, 92_eei_decisions.md D2, D4, D5, D6, D20) -/
def Obligations.CycleResultSaysWhatChanged : Prop :=
  ∀ (s t : State) (r : CycleResult), step s = .next t → cycleResult s = .next r →
    match r with
    | .executed => s.status = .running ∧ t.status = .running ∧ s.pc.toNat + 1 < 4096 ∧
        ∃ i, decodeWord (fetchedWord s) = .ok i ∧ exec i s = .next t
    | .waiting => s.status = .running ∧ t = s ∧ (∀ k, s.key k = false) ∧ s.pc.toNat + 1 < 4096 ∧
        ∃ x, decodeWord (fetchedWord s) = .ok (.ldVxK x)
    | .unknown w pc => s.status = .running ∧ w = fetchedWord s ∧ pc = s.pc ∧ s.pc.toNat + 1 < 4096 ∧
        decodeWord w = .error (.unknownOpcode w) ∧ t.pc = s.pc + 2#16 ∧ OnlyChanged [.pc] s t
    | .fault f => s.status = .running ∧ t = s.setStatus (.halted f) ∧ f.pc = s.pc ∧
        f.word = (if s.pc.toNat + 1 < 4096 then some (fetchedWord s) else none)
    | .halted f => s.status = .halted f ∧ t = s

/-- O11: No step refuses and no step stops the machine outside its state: every error outcome is a value, kept in status or returned.
(60_exceptions.md section 2, 60_exceptions.md section 6) -/
def Obligations.EveryStepAnswersNext : Prop :=
  ∀ s : State, (∃ t, step s = .next t) ∧ ∃ r, cycleResult s = .next r

/-- O12: Whatever a running core executes, the record it halts with never names RegisterFault, and a memory fault always names an address of 4096 or above (D5).
(10_state.md section 2 (RegisterFault), 60_exceptions.md section 1, 92_eei_decisions.md D5) -/
def Obligations.RegisterFaultIsNeverRaised : Prop :=
  ∀ (s t : State) (f : FaultRecord), s.status = .running → step s = .next t → t.status = .halted f →
    f.name ≠ .registerFault ∧ (f.name = .memoryFault → 4096 ≤ f.info)

/-- O13: The word 1nnn decodes to the jump; it sets PC to the zero-extended nnn and changes nothing else; a target whose fetch would fault faults at the next cycle and not before (D38), with no instruction word in the record (D5) and the lowest address out of range (D32): log 14.
(41_flow.md section 1 (1nnn), 41_flow.md section 3, 40_cycle.md section fetch, 92_eei_decisions.md D5, D32, D38) -/
def Obligations.JumpGoesToItsAddress : Prop :=
  ∀ (nnn : BitVec 12) (s : State),
    decodeWord (nibbleAddr 0x1#4 nnn) = .ok (.jp (nnn.setWidth 16)) ∧
    GoesTo (.jp (nnn.setWidth 16)) s (nnn.setWidth 16) ∧
    (s.status = .running → 4095 ≤ nnn.toNat → FetchFaults (s.setPc (nnn.setWidth 16)))

/-- O14: The word Bnnn decodes to the jump with offset; it sets PC to V[0] + nnn, exact and at most 0x10FE, whatever bits 11..8 are, and changes nothing else; a target of 0xFFF or above faults at the next fetch (D38), with no instruction word in the record (D5) and the lowest address out of range (D32): log 14.
(41_flow.md section 1 (Bnnn), 41_flow.md section 3, 40_cycle.md section fetch, 92_eei_decisions.md D5, D32, D38) -/
def Obligations.OffsetJumpAddsV0 : Prop :=
  ∀ (nnn : BitVec 12) (s : State),
    decodeWord (nibbleAddr 0xB#4 nnn) = .ok (.jpV0 (nnn.setWidth 16)) ∧
    ∃ t, exec (.jpV0 (nnn.setWidth 16)) s = .next t ∧ t.pc.toNat = (s.reg 0).toNat + nnn.toNat ∧
      t.pc.toNat ≤ 0x10FE ∧ OnlyChanged [.pc] s t ∧
      (s.status = .running → 0xFFF ≤ t.pc.toNat → FetchFaults t)

/-- O15: The word 2nnn decodes to the call. With SP below 16 it writes PC+2 at S[SP] (the whole 16-bit value: decision D39) and no other entry, adds 1 to SP, sets PC to nnn and changes nothing else; with SP = 16 it takes StackOverflow with SP in the record (D5) and changes nothing but status.
(41_flow.md section 1 (2nnn), 92_eei_decisions.md D39, D4, D5) -/
def Obligations.CallPushesThenJumpsOrOverflows : Prop :=
  ∀ (nnn : BitVec 12) (s : State),
    decodeWord (nibbleAddr 0x2#4 nnn) = .ok (.call (nnn.setWidth 16)) ∧
    (s.sp.val < 16 → ∃ t, exec (.call (nnn.setWidth 16)) s = .next t ∧
      (∀ j : Fin 16, t.stackAt j = if j.val = s.sp.val then s.pc + 2#16 else s.stackAt j) ∧
      t.sp.val = s.sp.val + 1 ∧ t.pc = nnn.setWidth 16 ∧ OnlyChanged [.stack, .sp, .pc] s t) ∧
    (s.sp.val = 16 →
      TakesFault (.call (nnn.setWidth 16)) (nibbleAddr 0x2#4 nnn) s .stackOverflow 16)

/-- O16: The word 00EE decodes to the return. With SP above 0 it takes 1 from SP, sets PC to S[SP] exactly and changes nothing else, the popped entry included (decision D21); with SP = 0 it takes StackUnderflow with SP in the record (D5) and changes nothing but status.
(41_flow.md section 1 (00EE), 92_eei_decisions.md D21, D4, D5) -/
def Obligations.ReturnPopsOrUnderflows : Prop :=
  ∀ s : State,
    decodeWord 0x00EE#16 = .ok .ret ∧
    (∀ j : Fin 16, s.sp.val = j.val + 1 → ∃ t, exec .ret s = .next t ∧
      t.sp.val = j.val ∧ t.pc = s.stackAt j ∧ OnlyChanged [.sp, .pc] s t) ∧
    (s.sp.val = 0 → TakesFault .ret 0x00EE#16 s .stackUnderflow 0)

/-- O17: 3xnn tests V[x] = nn, 4xnn V[x] differs from nn, 5xy0 V[x] = V[y], 9xy0 V[x] differs from V[y]; 5xyn and 9xyn with n not 0 are unknown (conflict choice C3: log 14); PC advances by 4 when the test holds and by 2 when not, whatever the skipped word is, and nothing else changes.
(41_flow.md section 2 (3xnn, 4xnn, 5xy0, 9xy0), 30_encoding.md section 4 (families 5 and 9), 90_conflicts.md C3) -/
def Obligations.SkipsPassOverOneWord : Prop :=
  ∀ (x y n : BitVec 4) (nn : Byte) (s : State),
    (decodeWord (nibblesByte 0x3#4 x nn) = .ok (.seImm (regOf x) nn) ∧
      GoesTo (.seImm (regOf x) nn) s (if s.reg (regOf x) = nn then s.pc + 4#16 else s.pc + 2#16)) ∧
    (decodeWord (nibblesByte 0x4#4 x nn) = .ok (.sneImm (regOf x) nn) ∧
      GoesTo (.sneImm (regOf x) nn) s (if s.reg (regOf x) = nn then s.pc + 2#16 else s.pc + 4#16)) ∧
    (decodeWord (nibbles 0x5#4 x y 0#4) = .ok (.seReg (regOf x) (regOf y)) ∧
      GoesTo (.seReg (regOf x) (regOf y)) s
        (if s.reg (regOf x) = s.reg (regOf y) then s.pc + 4#16 else s.pc + 2#16)) ∧
    (decodeWord (nibbles 0x9#4 x y 0#4) = .ok (.sneReg (regOf x) (regOf y)) ∧
      GoesTo (.sneReg (regOf x) (regOf y)) s
        (if s.reg (regOf x) = s.reg (regOf y) then s.pc + 2#16 else s.pc + 4#16)) ∧
    (n ≠ 0#4 → decodeWord (nibbles 0x5#4 x y n) = .error (.unknownOpcode (nibbles 0x5#4 x y n)) ∧
      decodeWord (nibbles 0x9#4 x y n) = .error (.unknownOpcode (nibbles 0x9#4 x y n)))

/-- O18: 6xnn sets V[x] to nn; 7xnn sets V[x] to (V[x] + nn) mod 256 and records no carry; every other register (VF too, unless x = 15) keeps its value, PC advances by 2 and nothing else changes.
(R170, R171) -/
def Obligations.ImmediatesLoadAndAddWithoutFlag : Prop :=
  ∀ (x : BitVec 4) (nn : Byte) (s : State),
    (decodeWord (nibblesByte 0x6#4 x nn) = .ok (.ldImm (regOf x) nn) ∧
      SetsReg (.ldImm (regOf x) nn) s (regOf x) nn) ∧
    (decodeWord (nibblesByte 0x7#4 x nn) = .ok (.addImm (regOf x) nn) ∧
      SetsReg (.addImm (regOf x) nn) s (regOf x)
        (BitVec.ofNat 8 (((s.reg (regOf x)).toNat + nn.toNat) % 256)))

/-- O19: 8xy0 (its number is the spec's inference from the order of its list: N4, G3, log 14) sets V[x] to V[y]; PC advances by 2 and nothing else changes.
(42_alu.md section 2 (8xy0), 30_encoding.md section 4 (family 8), 91_not_in_source.md N4) -/
def Obligations.AssignCopiesARegister : Prop :=
  ∀ (x y : BitVec 4) (s : State),
    decodeWord (nibbles 0x8#4 x y 0x0#4) = .ok (.ldReg (regOf x) (regOf y)) ∧
    SetsReg (.ldReg (regOf x) (regOf y)) s (regOf x) (s.reg (regOf y))

/-- O20: Bit j of V[x] after 8xy1, 8xy2, 8xy3 (the numbers 1, 2 and 3 are the inference of the spec: N4, G3, log 14) is the OR, AND, XOR of bit j of V[x] and of V[y]; with x = y OR and AND keep V[x] and XOR clears it; every other register keeps its value, PC advances by 2 and nothing else changes.
(42_alu.md section 2 (8xy1, 8xy2, 8xy3), 30_encoding.md section 4 (family 8), 91_not_in_source.md N4) -/
def Obligations.LogicActsBitByBitWithoutFlag : Prop :=
  ∀ (x y : BitVec 4) (s : State),
    (decodeWord (nibbles 0x8#4 x y 0x1#4) = .ok (.or (regOf x) (regOf y)) ∧
      ∃ b : Byte, SetsReg (.or (regOf x) (regOf y)) s (regOf x) b ∧
        (∀ j : Nat, b.getLsbD j = ((s.reg (regOf x)).getLsbD j || (s.reg (regOf y)).getLsbD j)) ∧
        (x = y → b = s.reg (regOf x))) ∧
    (decodeWord (nibbles 0x8#4 x y 0x2#4) = .ok (.and (regOf x) (regOf y)) ∧
      ∃ b : Byte, SetsReg (.and (regOf x) (regOf y)) s (regOf x) b ∧
        (∀ j : Nat, b.getLsbD j = ((s.reg (regOf x)).getLsbD j && (s.reg (regOf y)).getLsbD j)) ∧
        (x = y → b = s.reg (regOf x))) ∧
    (decodeWord (nibbles 0x8#4 x y 0x3#4) = .ok (.xor (regOf x) (regOf y)) ∧
      ∃ b : Byte, SetsReg (.xor (regOf x) (regOf y)) s (regOf x) b ∧
        (∀ j : Nat, b.getLsbD j = ((s.reg (regOf x)).getLsbD j ^^ (s.reg (regOf y)).getLsbD j)) ∧
        (x = y → b = 0#8))

/-- O21: V[x] becomes (V[x] + V[y]) mod 256, and VF becomes 1 when the exact sum exceeds 255 and 0 otherwise; with x = 15 VF ends as the carry (decision D7); PC advances by 2 and nothing else changes.
(42_alu.md section 2 (8xy4), 92_eei_decisions.md D7) -/
def Obligations.AddSetsSumThenCarry : Prop :=
  ∀ (x y : BitVec 4) (s : State),
    decodeWord (nibbles 0x8#4 x y 0x4#4) = .ok (.addReg (regOf x) (regOf y)) ∧
    SetsRegAndFlag (.addReg (regOf x) (regOf y)) s (regOf x)
      (BitVec.ofNat 8 (((s.reg (regOf x)).toNat + (s.reg (regOf y)).toNat) % 256))
      (if (s.reg (regOf x)).toNat + (s.reg (regOf y)).toNat > 255 then 1#8 else 0#8)

/-- O22: 8xy5 writes (V[x] - V[y]) mod 256 and VF = 1 exactly when V[x] > V[y]; 8xy7 (the number 7 is the inference of the spec: N4, G3, log 14) writes (V[y] - V[x]) mod 256 and VF = 1 exactly when V[y] > V[x]; at equality VF is 0 (conflict C4); VF is written last (D7); PC advances by 2 and nothing else changes.
(42_alu.md section 2 (8xy5, 8xy7), 30_encoding.md section 4 (family 8), 91_not_in_source.md N4, 90_conflicts.md C4, 92_eei_decisions.md D7) -/
def Obligations.SubtractsFlagStrictlyGreater : Prop :=
  ∀ (x y : BitVec 4) (s : State),
    (decodeWord (nibbles 0x8#4 x y 0x5#4) = .ok (.sub (regOf x) (regOf y)) ∧
      SetsRegAndFlag (.sub (regOf x) (regOf y)) s (regOf x)
        (BitVec.ofInt 8 ((s.reg (regOf x)).toNat - (s.reg (regOf y)).toNat))
        (if (s.reg (regOf x)).toNat > (s.reg (regOf y)).toNat then 1#8 else 0#8)) ∧
    (decodeWord (nibbles 0x8#4 x y 0x7#4) = .ok (.subn (regOf x) (regOf y)) ∧
      SetsRegAndFlag (.subn (regOf x) (regOf y)) s (regOf x)
        (BitVec.ofInt 8 ((s.reg (regOf y)).toNat - (s.reg (regOf x)).toNat))
        (if (s.reg (regOf y)).toNat > (s.reg (regOf x)).toNat then 1#8 else 0#8))

/-- O23: Under both values of the parameter SHIFT_SOURCE (D8): with s the byte V[x] or V[y] it names, 8xy6 writes s div 2 and VF = s mod 2, 8xyE writes 2s mod 256 and VF = s div 128; VF is written last (D7); the numbers 6 and E are the inference of the spec (N4, G3, log 14); PC advances by 2 and nothing else changes.
(42_alu.md section 2 (8xy6, 8xyE), 30_encoding.md section 4 (family 8), 91_not_in_source.md N4, 92_eei_decisions.md D8, D7) -/
def Obligations.ShiftsFollowTheSourceParameter : Prop :=
  ∀ (x y : BitVec 4) (s : State),
    let b := if s.cfg.shiftSource = .vx then (s.reg (regOf x)).toNat else (s.reg (regOf y)).toNat
    (decodeWord (nibbles 0x8#4 x y 0x6#4) = .ok (.shr (regOf x) (regOf y)) ∧
      SetsRegAndFlag (.shr (regOf x) (regOf y)) s (regOf x) (BitVec.ofNat 8 (b / 2)) (BitVec.ofNat 8 (b % 2))) ∧
    (decodeWord (nibbles 0x8#4 x y 0xE#4) = .ok (.shl (regOf x) (regOf y)) ∧
      SetsRegAndFlag (.shl (regOf x) (regOf y)) s (regOf x) (BitVec.ofNat 8 (2 * b % 256))
        (BitVec.ofNat 8 (b / 128)))

/-- O24: Cxnn sets V[x] to rnd & nn for every byte rnd the cycle is given; with no rnd given, which is the open draw of the model (log 2), its set bits are still a subset of those of nn; no flag is written unless x = 15; PC advances by 2 and nothing else changes but the consumed draw (the fields rndIn and draws of the model: log 2).
(42_alu.md section 3 (Cxnn), 40_cycle.md section draw, 92_eei_decisions.md D15) -/
def Obligations.RandomByteIsMasked : Prop :=
  ∀ (x : BitVec 4) (nn : Byte) (s : State),
    decodeWord (nibblesByte 0xC#4 x nn) = .ok (.rnd (regOf x) nn) ∧
    ∃ t, exec (.rnd (regOf x) nn) s = .next t ∧
      (∀ r, r ≠ regOf x → t.reg r = s.reg r) ∧
      (∀ rnd, s.rndIn = some rnd → t.reg (regOf x) = rnd &&& nn) ∧
      t.reg (regOf x) &&& ~~~nn = 0#8 ∧
      t.pc = s.pc + 2#16 ∧ OnlyChanged [.v, .pc, .draw] s t

/-- O25: On a running core whose fetched word is Cxnn, the host operation Cycle(rnd) sets V[x] to rnd & nn and returns Executed, for every rnd (decision D15); nothing else changes but PC and the draw fields of the model (log 2). The word is read high byte first (D2, log 5).
(40_cycle.md section Cycle(rnd), 92_eei_decisions.md D2, D15) -/
def Obligations.CycleGivesItsDrawToRandom : Prop :=
  ∀ (x : BitVec 4) (nn rnd : Byte) (s : State), s.status = .running → s.pc.toNat + 1 < 4096 →
    fetchedWord s = nibblesByte 0xC#4 x nn →
    ∃ t, perform (.cycle rnd) s = .next (t, .cycle .executed) ∧ t.reg (regOf x) = rnd &&& nn ∧
      (∀ r, r ≠ regOf x → t.reg r = s.reg r) ∧ t.pc = s.pc + 2#16 ∧ OnlyChanged [.v, .pc, .draw] s t

/-- O26: Annn sets I to the zero-extended nnn, so that I is at most 0xFFF; PC advances by 2 and nothing else changes.
(R210) -/
def Obligations.LoadIndexIsTheAddress : Prop :=
  ∀ (nnn : BitVec 12) (s : State),
    decodeWord (nibbleAddr 0xA#4 nnn) = .ok (.ldI (nnn.setWidth 16)) ∧
    ∃ t, exec (.ldI (nnn.setWidth 16)) s = .next t ∧ t.i.toNat = nnn.toNat ∧ t.i.toNat ≤ 0xFFF ∧
      t.pc = s.pc + 2#16 ∧ OnlyChanged [.i, .pc] s t

/-- O27: I becomes (I + V[x]) mod 2^16; VF becomes 1 when the exact sum exceeds 0xFFF and 0 otherwise (writing 0, and the width, are decision D9), with the old VF as the addend when x = 15; PC advances by 2 and nothing else changes.
(43_index_memory.md section 1 (Fx1E), 92_eei_decisions.md D9) -/
def Obligations.AddToIndexFlagsPastTheLastAddress : Prop :=
  ∀ (x : BitVec 4) (s : State),
    decodeWord (nibblesByte 0xF#4 x 0x1E#8) = .ok (.addIVx (regOf x)) ∧
    ∃ t, exec (.addIVx (regOf x)) s = .next t ∧
      t.i.toNat = (s.i.toNat + (s.reg (regOf x)).toNat) % 0x10000 ∧
      (∀ r, t.reg r =
        if r = VF then (if s.i.toNat + (s.reg (regOf x)).toNat > 0xFFF then 1#8 else 0#8) else s.reg r) ∧
      t.pc = s.pc + 2#16 ∧ OnlyChanged [.i, .v, .pc] s t

/-- O28: I becomes 5 * V[x], with no masking for V[x] above 15 (decision D10); PC advances by 2 and nothing else changes.
(43_index_memory.md section 1 (Fx29), 92_eei_decisions.md D10) -/
def Obligations.GlyphAddressIsFiveTimes : Prop :=
  ∀ (x : BitVec 4) (s : State),
    decodeWord (nibblesByte 0xF#4 x 0x29#8) = .ok (.ldFVx (regOf x)) ∧
    ∃ t, exec (.ldFVx (regOf x)) s = .next t ∧ t.i.toNat = 5 * (s.reg (regOf x)).toNat ∧
      t.pc = s.pc + 2#16 ∧ OnlyChanged [.i, .pc] s t

/-- O29: With I+2 in range the bytes at I, I+1 and I+2 become the hundreds, tens and units digits of V[x], every other byte of memory keeps its value, PC advances by 2 and nothing else changes; otherwise it takes MemoryFault on max(I, 4096) and changes nothing but status (D4, D5, D32).
(43_index_memory.md section 2 (Fx33), 20_memory.md section 4, 92_eei_decisions.md D4, D5, D32) -/
def Obligations.BcdStoresThreeDigitsOrFaults : Prop :=
  ∀ (x : BitVec 4) (s : State),
    decodeWord (nibblesByte 0xF#4 x 0x33#8) = .ok (.ldBVx (regOf x)) ∧
    (s.i.toNat + 2 < 4096 → ∃ t, exec (.ldBVx (regOf x)) s = .next t ∧
      (t.byteAt s.i.toNat).toNat = (s.reg (regOf x)).toNat / 100 ∧
      (t.byteAt (s.i.toNat + 1)).toNat = (s.reg (regOf x)).toNat / 10 % 10 ∧
      (t.byteAt (s.i.toNat + 2)).toNat = (s.reg (regOf x)).toNat % 10 ∧
      (∀ a, ¬ (s.i.toNat ≤ a ∧ a ≤ s.i.toNat + 2) → t.byteAt a = s.byteAt a) ∧
      t.pc = s.pc + 2#16 ∧ OnlyChanged [.mem, .pc] s t) ∧
    (4096 ≤ s.i.toNat + 2 →
      TakesFault (.ldBVx (regOf x)) (nibblesByte 0xF#4 x 0x33#8) s .memoryFault (max s.i.toNat 4096))

/-- O30: With I+x in range the byte at I+j becomes V[j] for every j up to x, every other byte of memory keeps its value, I becomes I+x+1, PC advances by 2 and nothing else changes; otherwise it takes MemoryFault on max(I, 4096) and changes nothing but status (D4, D5, D32).
(43_index_memory.md section 2 (Fx55), 20_memory.md section 4, 92_eei_decisions.md D4, D5, D32) -/
def Obligations.StoreRegistersWritesV0ToVx : Prop :=
  ∀ (x : BitVec 4) (s : State),
    decodeWord (nibblesByte 0xF#4 x 0x55#8) = .ok (.ldMemVx (regOf x)) ∧
    (s.i.toNat + x.toNat < 4096 → ∃ t, exec (.ldMemVx (regOf x)) s = .next t ∧
      (∀ j : Reg, j ≤ regOf x → t.byteAt (s.i.toNat + j.val) = s.reg j) ∧
      (∀ a, ¬ (s.i.toNat ≤ a ∧ a ≤ s.i.toNat + x.toNat) → t.byteAt a = s.byteAt a) ∧
      t.i.toNat = s.i.toNat + x.toNat + 1 ∧
      t.pc = s.pc + 2#16 ∧ OnlyChanged [.mem, .i, .pc] s t) ∧
    (4096 ≤ s.i.toNat + x.toNat →
      TakesFault (.ldMemVx (regOf x)) (nibblesByte 0xF#4 x 0x55#8) s .memoryFault (max s.i.toNat 4096))

/-- O31: With I+x in range V[j] becomes the byte at I+j for every j up to x, the other registers keep their values, I becomes I+x+1, PC advances by 2 and nothing else changes; otherwise it takes MemoryFault on max(I, 4096) and changes nothing but status (D4, D5, D32).
(43_index_memory.md section 2 (Fx65), 20_memory.md section 4, 92_eei_decisions.md D4, D5, D32) -/
def Obligations.LoadRegistersReadsV0ToVx : Prop :=
  ∀ (x : BitVec 4) (s : State),
    decodeWord (nibblesByte 0xF#4 x 0x65#8) = .ok (.ldVxMem (regOf x)) ∧
    (s.i.toNat + x.toNat < 4096 → ∃ t, exec (.ldVxMem (regOf x)) s = .next t ∧
      (∀ r, t.reg r = if r ≤ regOf x then s.byteAt (s.i.toNat + r.val) else s.reg r) ∧
      t.i.toNat = s.i.toNat + x.toNat + 1 ∧
      t.pc = s.pc + 2#16 ∧ OnlyChanged [.v, .i, .pc] s t) ∧
    (4096 ≤ s.i.toNat + x.toNat →
      TakesFault (.ldVxMem (regOf x)) (nibblesByte 0xF#4 x 0x65#8) s .memoryFault (max s.i.toNat 4096))

/-- O32: After Fx55 stored V[0]..V[x] from I on, Fx65 with the same x and the same I loads the same values back, whatever the registers held in between.
(20_memory.md section 5 (ordering), 43_index_memory.md section 2) -/
def Obligations.StoredRegistersLoadBack : Prop :=
  ∀ (x : Reg) (s t u : State) (v : Vector Byte 16), s.i.toNat + x.val < 4096 → exec (.ldMemVx x) s = .next t →
    u = (t.setRegs v).setI s.i →
    ∃ w, exec (.ldVxMem x) u = .next w ∧ ∀ r, r ≤ x → w.reg r = s.reg r

/-- O33: After Fx55 stored V[0]..V[x] from I on, the fetch with PC at I+j reads, for every j with j+1 at most x, the word whose high byte is V[j] and whose low byte is V[j+1] (high byte first: D2, log 5).
(20_memory.md section 5 (self-modifying code), 20_memory.md section 2 (byte order: 92 D2, log 5), 43_index_memory.md section 2 (Fx55)) -/
def Obligations.StoredWordIsTheNextFetched : Prop :=
  ∀ (x j k : Reg) (s t : State), j.val + 1 = k.val → k ≤ x → s.i.toNat + x.val < 4096 →
    exec (.ldMemVx x) s = .next t →
    (t.setPc (s.i + BitVec.ofNat 16 j.val)).fetch = .ok (wordOfBytes (s.reg j) (s.reg k))

/-- O34: 00E0 makes every pixel 0 and dirty 1, also when FB was already all 0; PC advances by 2 and nothing else changes, VF included.
(R241) -/
def Obligations.ClearDarkensAndMarksDirty : Prop :=
  ∀ s : State, decodeWord 0x00E0#16 = .ok .cls ∧
    ∃ t, exec .cls s = .next t ∧ (∀ r c, t.pixel r c = false) ∧ t.dirty = true ∧
      t.pc = s.pc + 2#16 ∧ OnlyChanged [.fb, .dirty, .pc] s t

/-- O35: With its bytes in range (or n = 0: D11) a pixel changes exactly when a set bit of the sprite, drawn modulo 64 and 32 at (V[x], V[y]) read before VF is written, falls on it; VF becomes 1 exactly when one of those pixels was lit, else 0; dirty becomes 1 (D12), PC advances by 2, nothing else changes. Otherwise MemoryFault on max(I, 4096) and nothing but status changes (D4, D5, D32).
(44_display.md section 3 (Dxyn), 92_eei_decisions.md D11, D12, D4, D5, D32) -/
def Obligations.DrawFlipsExactlyTheSpritePixels : Prop :=
  ∀ (x y n : BitVec 4) (s : State),
    decodeWord (nibbles 0xD#4 x y n) = .ok (.drw (regOf x) (regOf y) n.toNat) ∧
    (n = 0#4 ∨ s.i.toNat + n.toNat ≤ 4096 →
      ∃ t, exec (.drw (regOf x) (regOf y) n.toNat) s = .next t ∧
        (∀ r c, t.pixel r c ≠ s.pixel r c ↔ SpriteCovers s (s.reg (regOf x)) (s.reg (regOf y)) n.toNat r c) ∧
        ((∃ r c, SpriteCovers s (s.reg (regOf x)) (s.reg (regOf y)) n.toNat r c ∧ s.pixel r c = true) →
          t.reg VF = 1#8) ∧
        ((∀ r c, SpriteCovers s (s.reg (regOf x)) (s.reg (regOf y)) n.toNat r c → s.pixel r c = false) →
          t.reg VF = 0#8) ∧
        (∀ r, r ≠ VF → t.reg r = s.reg r) ∧ t.dirty = true ∧
        t.pc = s.pc + 2#16 ∧ OnlyChanged [.fb, .v, .dirty, .pc] s t) ∧
    (n ≠ 0#4 ∧ 4096 < s.i.toNat + n.toNat →
      TakesFault (.drw (regOf x) (regOf y) n.toNat) (nibbles 0xD#4 x y n) s .memoryFault (max s.i.toNat 4096))

/-- O36: When a second Dxyn (n = 0 included: D11) runs right after a first one that did not fault, with the same V[x] and V[y], every pixel is as before the first draw, and VF is 1 exactly when a set sprite bit fell on a pixel that was dark before the first draw.
(44_display.md section 3 (involution), 92_eei_decisions.md D11) -/
def Obligations.DrawTwiceRestoresTheScreen : Prop :=
  ∀ (x y : Reg) (n : Nat) (s t : State), n < 16 → (n = 0 ∨ s.i.toNat + n ≤ 4096) →
    exec (.drw x y n) s = .next t → t.reg x = s.reg x → t.reg y = s.reg y →
    ∃ u, exec (.drw x y n) t = .next u ∧ (∀ r c, u.pixel r c = s.pixel r c) ∧
      (u.reg VF = 1#8 ↔ ∃ r c, SpriteCovers s (s.reg x) (s.reg y) n r c ∧ s.pixel r c = false)

/-- O37: When V[x] names key k, Ex9E advances PC by 4 if k is down and by 2 if up, ExA1 the other way round, and nothing else changes; when V[x] is above 15 both take InvalidKeyIndex with V[x] in the record and change nothing but status (decisions D13, D5).
(45_timers_keys.md section 1, 92_eei_decisions.md D13, D4, D5) -/
def Obligations.KeySkipsTestTheNamedKey : Prop :=
  ∀ (x : BitVec 4) (s : State),
    decodeWord (nibblesByte 0xE#4 x 0x9E#8) = .ok (.skp (regOf x)) ∧
    decodeWord (nibblesByte 0xE#4 x 0xA1#8) = .ok (.sknp (regOf x)) ∧
    (∀ k : Fin 16, (s.reg (regOf x)).toNat = k.val →
      GoesTo (.skp (regOf x)) s (if s.key k then s.pc + 4#16 else s.pc + 2#16) ∧
      GoesTo (.sknp (regOf x)) s (if s.key k then s.pc + 2#16 else s.pc + 4#16)) ∧
    (15 < (s.reg (regOf x)).toNat →
      TakesFault (.skp (regOf x)) (nibblesByte 0xE#4 x 0x9E#8) s .invalidKeyIndex (s.reg (regOf x)).toNat ∧
      TakesFault (.sknp (regOf x)) (nibblesByte 0xE#4 x 0xA1#8) s .invalidKeyIndex (s.reg (regOf x)).toNat)

/-- O38: With every key up Fx0A leaves the state as it is; when k is down and every lower key is up it sets V[x] to k (level-sensitive, lowest index: decision D14), PC advances by 2 and nothing else changes.
(45_timers_keys.md section 2 (Fx0A), 92_eei_decisions.md D14) -/
def Obligations.KeyWaitTakesTheLowestKeyDown : Prop :=
  ∀ (x : BitVec 4) (s : State),
    decodeWord (nibblesByte 0xF#4 x 0x0A#8) = .ok (.ldVxK (regOf x)) ∧
    ((∀ k, s.key k = false) → exec (.ldVxK (regOf x)) s = .next s) ∧
    (∀ k : Fin 16, s.key k = true → (∀ j, j < k → s.key j = false) →
      SetsReg (.ldVxK (regOf x)) s (regOf x) (BitVec.ofNat 8 k.val))

/-- O39: On a running core whose fetched word is Fx0A, with every key up, the step leaves the state as it is and the cycle returns Waiting; with some key down, also one that was already down, it returns Executed (level-sensitive: decision D14, log 14). The word is read high byte first (D2, log 5).
(45_timers_keys.md section 2 (Fx0A), 70_reset_and_hazards.md section 4, 92_eei_decisions.md D2, D14) -/
def Obligations.ParkedCoreReturnsWaiting : Prop :=
  ∀ (x : BitVec 4) (s : State), s.status = .running → s.pc.toNat + 1 < 4096 →
    fetchedWord s = nibblesByte 0xF#4 x 0x0A#8 →
    ((∀ k, s.key k = false) → step s = .next s ∧ cycleResult s = .next .waiting) ∧
    ((∃ k, s.key k = true) → cycleResult s = .next .executed)

/-- O40: Fx07 sets V[x] to DT, leaves DT and advances PC; Fx15 sets DT to V[x], changes nothing else but PC, and after k further ticks DT holds V[x] less k, and 0 once k exceeds it, in any status (decision D30, log 14).
(45_timers_keys.md section 3 (Fx07, Fx15), 60_exceptions.md section 4, 92_eei_decisions.md D30) -/
def Obligations.DelayTimerReadsAndCountsDown : Prop :=
  ∀ (x : BitVec 4) (s : State),
    (decodeWord (nibblesByte 0xF#4 x 0x07#8) = .ok (.ldVxDt (regOf x)) ∧
      SetsReg (.ldVxDt (regOf x)) s (regOf x) s.dt) ∧
    (decodeWord (nibblesByte 0xF#4 x 0x15#8) = .ok (.ldDtVx (regOf x)) ∧
      ∃ t, exec (.ldDtVx (regOf x)) s = .next t ∧ t.dt = s.reg (regOf x) ∧ t.pc = s.pc + 2#16 ∧
        OnlyChanged [.dt, .pc] s t ∧
        ∀ k, ∃ u rs, performAll (List.replicate k .tick) t = .next (u, rs) ∧
          u.dt.toNat = (s.reg (regOf x)).toNat - k)

/-- O41: Fx18 sets ST to V[x] and changes nothing else but PC; of the k ticks that follow, exactly the one that takes ST from 1 to 0, the V[x]-th, emits the cue, and none does when V[x] is 0 (decision D16); the ticks count in any status (decision D30, log 14).
(45_timers_keys.md section 3 (Fx18), 60_exceptions.md section 4, 92_eei_decisions.md D16, D30) -/
def Obligations.SoundTimerSetEmitsNoCue : Prop :=
  ∀ (x : BitVec 4) (s : State),
    decodeWord (nibblesByte 0xF#4 x 0x18#8) = .ok (.ldStVx (regOf x)) ∧
    ∃ t, exec (.ldStVx (regOf x)) s = .next t ∧ t.st = s.reg (regOf x) ∧ t.pc = s.pc + 2#16 ∧
      OnlyChanged [.st, .pc] s t ∧
      ∀ k, ∃ u, performAll (List.replicate k .tick) t = .next (u,
          (List.range k).map fun j => .cue (decide ((s.reg (regOf x)).toNat = j + 1))) ∧
        u.st.toNat = (s.reg (regOf x)).toNat - k

/-- O42: Tick returns whether ST was 1, takes 1 from DT and from ST when they are above 0, leaves a timer at 0 at 0, and changes no other state, whatever the status (Halted too: decision D30, log 14).
(60_exceptions.md section 4, 60_exceptions.md section 2, 92_eei_decisions.md D30) -/
def Obligations.TickDecrementsNonzeroTimers : Prop :=
  ∀ s : State, ∃ t, perform .tick s = .next (t, .cue (decide (s.st.toNat = 1))) ∧
    t.dt.toNat = s.dt.toNat - 1 ∧ t.st.toNat = s.st.toNat - 1 ∧ OnlyChanged [.dt, .st] s t

/-- O43: SetKeys(v) makes K equal v, key by key, returns Ok (the result column of the list of operations: decision D1, log 14) and changes nothing else.
(60_exceptions.md section 5, 60_exceptions.md section 6, 92_eei_decisions.md D1) -/
def Obligations.SetKeysReplacesTheKeypad : Prop :=
  ∀ (v : Vector Bool 16) (s : State), ∃ t, perform (.setKeys v) s = .next (t, .ok) ∧
    (∀ k : Fin 16, t.key k = v[k.val]) ∧ OnlyChanged [.keys] s t

/-- O44: With an index below 16 SetKey sets that key alone and returns Ok (D1); otherwise it returns InvalidKeyIndex with the index and the state is as before, status included (decision D25).
(60_exceptions.md section 5, 92_eei_decisions.md D1, D25) -/
def Obligations.SetKeyChangesOneKeyOrReportsTheIndex : Prop :=
  ∀ (index : Nat) (b : Bool) (s : State),
    (index < 16 → ∃ t, perform (.setKey index b) s = .next (t, .ok) ∧
      (∀ k : Fin 16, t.key k = if k.val = index then b else s.key k) ∧ OnlyChanged [.keys] s t) ∧
    (16 ≤ index → perform (.setKey index b) s = .next (s, .invalidKeyIndex index))

/-- O45: With at most 0xE00 bytes the byte at 0x200+j becomes the j-th byte, every other byte of memory keeps its value and nothing else changes, and Ok is returned (D1); with more, RomTooLarge with the length is returned and the state is as before (decision D19).
(70_reset_and_hazards.md section 2, 92_eei_decisions.md D1, D19) -/
def Obligations.LoadProgramCopiesOrRejects : Prop :=
  ∀ (bytes : List Byte) (s : State),
    (bytes.length ≤ 0xE00 → ∃ t, perform (.loadProgram bytes) s = .next (t, .ok) ∧
      (∀ j, j < bytes.length → t.byteAt (0x200 + j) = bytes.getD j 0#8) ∧
      (∀ a, ¬ (0x200 ≤ a ∧ a < 0x200 + bytes.length) → t.byteAt a = s.byteAt a) ∧ OnlyChanged [.mem] s t) ∧
    (0xE00 < bytes.length → perform (.loadProgram bytes) s = .next (s, .romTooLarge bytes.length))

/-- O46: From every state, Halted included, Reset zeroes V, I, the stack, SP and both timers, sets PC to 0x200, loads FONT at 0x000 and 0 above it, darkens FB, releases every key, sets status to Running and dirty to 1 (keys, status and dirty are decision D17), and keeps the parameters (log 1); past 0xFFF, where there is no byte, the clause speaks of the total read of the model (log 13).
(10_state.md section 8, 70_reset_and_hazards.md section 1, 92_eei_decisions.md D17) -/
def Obligations.ResetRestoresEveryPiece : Prop :=
  ∀ s : State, ∃ t, perform .reset s = .next (t, .none) ∧
    (∀ r, t.reg r = 0#8) ∧ t.i = 0#16 ∧ t.pc = 0x200#16 ∧ (∀ j, t.stackAt j = 0#16) ∧ t.sp.val = 0 ∧
    t.dt = 0#8 ∧ t.st = 0#8 ∧ (∀ a : Fin 80, t.byteAt a.val = s.cfg.font[a.val]) ∧
    (∀ a, 80 ≤ a → t.byteAt a = 0#8) ∧ (∀ r c, t.pixel r c = false) ∧ (∀ k, t.key k = false) ∧
    t.status = .running ∧ t.dirty = true ∧ t.cfg = s.cfg

/-- O47: ReadFramebuffer returns every pixel and dirty, Dump returns V, I, PC, S, SP, DT, ST and status (D35), neither changes the state; AckDisplay clears dirty and changes nothing else (D24).
(60_exceptions.md section 6, 92_eei_decisions.md D24, D35) -/
def Obligations.ObserversChangeNothing : Prop :=
  ∀ s : State,
    (∃ fb d, perform .readFramebuffer s = .next (s, .framebuffer fb d) ∧ d = s.dirty ∧
      ∀ r c, fb.pixel r c = s.pixel r c) ∧
    (∃ d, perform .dump s = .next (s, .dump d) ∧ (∀ r : Reg, d.v[r.val] = s.reg r) ∧ d.i = s.i ∧ d.pc = s.pc ∧
      (∀ j : Fin 16, d.stack[j.val] = s.stackAt j) ∧ d.sp = s.sp ∧ d.dt = s.dt ∧ d.st = s.st ∧
      d.status = s.status) ∧
    (∃ t, perform .ackDisplay s = .next (t, .none) ∧ t.dirty = false ∧ OnlyChanged [.dirty] s t)

/-- O48: From the state any Reset leaves, after LoadProgram of a ROM that begins with two bytes that decode, high byte first (D2, log 5), the first step is exec of that instruction, with PC at 0x200 and every register 0: V, I, SP, DT, ST and every stack entry.
(70_reset_and_hazards.md section 3 (boot), 20_memory.md section 3, 20_memory.md section 2 (byte order: 92 D2, log 5)) -/
def Obligations.LoadedProgramStartsAtItsFirstWord : Prop :=
  ∀ (s t u : State) (hi lo : Byte) (rest : List Byte) (i : Instr), rest.length ≤ 0xDFE →
    decodeWord (wordOfBytes hi lo) = .ok i → perform .reset s = .next (t, .none) →
    perform (.loadProgram (hi :: lo :: rest)) t = .next (u, .ok) →
    step u = exec i u ∧ u.pc = 0x200#16 ∧ (∀ r, u.reg r = 0#8) ∧ u.i = 0#16 ∧ u.sp.val = 0 ∧
      u.dt = 0#8 ∧ u.st = 0#8 ∧ ∀ j, u.stackAt j = 0#16

/-- O49: From every state, after the model's own placing of a word that decodes (log 9), high byte first (D2, log 5), the next step is exec of that instruction.
(40_cycle.md section fetch, 20_memory.md section 2 (log 9)) -/
def Obligations.FetchWordIsTheNextInstruction : Prop :=
  ∀ (s : State) (w : Nat) (i : Instr), w < 0x10000 → decodeTableWord 16 w = some i →
    step (s.withFetchWord 16 w) = exec i (s.withFetchWord 16 w)

/-- O50: Whenever exec answers a next state, nothing changed but status and the pieces the table `written` lists for the instruction, and no register changed but those `mayWriteReg` lists: I only by Annn, Fx1E, Fx29, Fx55, Fx65; FB only by 00E0 and Dxyn; the stack only by 2nnn; memory only by Fx33 and Fx55; DT only by Fx15; ST only by Fx18; keys never; the draw fields of the model only by Cxnn (log 2). Where the status changes, the instruction took a fault, and the state after is the state before with status Halted(f) for some record f and nothing else written, not even the listed pieces (decision D4, log 14). Which bytes Fx33 and Fx55 store to is said by BcdStoresThreeDigitsOrFaults and StoreRegistersWritesV0ToVx.
(10_state.md sections 2 to 7, 44_display.md section 1, 60_exceptions.md section 2 (fault entry), 92_eei_decisions.md D4) -/
def Obligations.EveryInstructionWritesOnlyItsParts : Prop :=
  ∀ (i : Instr) (s t : State), exec i s = .next t →
    OnlyChanged (.status :: written i) s t ∧
    (∀ r, mayWriteReg i r = false → t.reg r = s.reg r) ∧
    (t.status = s.status ∨ ∃ f, t = s.setStatus (.halted f))

/-- O51: A step leaves the keypad and the parameters as they are; it changes DT only when the fetched word is an Fx15 and ST only when it is an Fx18; dirty, once set, stays set (a cycle never clears it: decision D24, log 14). The word is read high byte first (D2, log 5); the parameters stay by log 1.
(10_state.md sections 4, 5 and 6, 92_eei_decisions.md D2, D24, 70_reset_and_hazards.md sections 4 and 5) -/
def Obligations.CyclesNeverMoveTimersKeysOrParameters : Prop :=
  ∀ s t : State, step s = .next t →
    Part.keys.Same s t ∧ Part.cfg.Same s t ∧
    (t.dt ≠ s.dt → ∃ x, decodeWord (fetchedWord s) = .ok (.ldDtVx x)) ∧
    (t.st ≠ s.st → ∃ x, decodeWord (fetchedWord s) = .ok (.ldStVx x)) ∧
    (s.dirty = true → t.dirty = true)

/-- O52: Two states that differ only in ST and dirty step to states that differ only in ST and dirty, with the same cycle result.
(10_state.md section 4, 10_state.md section 6) -/
def Obligations.NoStepReadsSoundTimerOrDirty : Prop :=
  ∀ (s t : State) (b : Byte) (d : Bool), step s = .next t →
    (∃ u, step ((s.setSt b).setDirty d) = .next u ∧ OnlyChanged [.st, .dirty] t u) ∧
    cycleResult ((s.setSt b).setDirty d) = cycleResult s

/-- O53: On a halted core every host operation other than Reset keeps the status with the same record, and keeps PC, V, I, the stack and SP (decisions D6, D30).
(60_exceptions.md section 2, 92_eei_decisions.md D6, D30) -/
def Obligations.OnlyResetLeavesHalted : Prop :=
  ∀ (o : HostOp) (s t : State) (r : HostResult) (f : FaultRecord), s.status = .halted f → o ≠ .reset →
    perform o s = .next (t, r) →
    t.status = .halted f ∧ t.pc = s.pc ∧ t.i = s.i ∧ t.sp = s.sp ∧ Part.v.Same s t ∧ Part.stack.Same s t

/-- O54: Every host operation other than AckDisplay leaves a set dirty bit set (decision D24).
(10_state.md section 6, 92_eei_decisions.md D24) -/
def Obligations.DirtyIsClearedOnlyByAck : Prop :=
  ∀ (o : HostOp) (s t : State) (r : HostResult), s.dirty = true → o ≠ .ackDisplay →
    perform o s = .next (t, r) → t.dirty = true

/-- O55: From every state, every interleaving of host operations runs to its end, and each operation returns a result.
(60_exceptions.md sections 3 and 6) -/
def Obligations.EveryHostRunCompletes : Prop :=
  ∀ (ops : List HostOp) (s : State), ∃ t rs, performAll ops s = .next (t, rs) ∧ rs.length = ops.length

/-- O56: Under all parameters the boot state has canonical memory, PC and stack within their bounds and a legal status; so has State.reset.
(10_state.md section 8) -/
def Obligations.ResetStateMeetsTheInvariant : Prop :=
  (∀ c : Config, Inv (State.boot c)) ∧ Inv State.reset

/-- O57: From every state that meets the invariant, a step gives one that does: memory stays in canonical form and in range, PC stays at most 0x10FE and every stack entry at most 0x1000 (so PC arithmetic never wraps), and a halted core holds a record the rules can make, naming the PC it still has (the record: D4, D5, D32, log 14).
(40_cycle.md section PC arithmetic, 60_exceptions.md section 2, 20_memory.md section 1, 92_eei_decisions.md D4, D5, D32) -/
def Obligations.StepKeepsTheInvariant : Prop :=
  ∀ s t : State, Inv s → step s = .next t → Inv t

/-- O58: From every state that meets the invariant, each of Reset, LoadProgram, SetKey, SetKeys, Cycle, Tick, ReadFramebuffer, AckDisplay and Dump, with any input, gives a state that meets it (the fault record in it: D4, D5, D32; the operations: D1; log 14) and still has the same parameters (which the model carries in State: log 1).
(70_reset_and_hazards.md sections 1 and 2, 60_exceptions.md sections 2 to 6, 40_cycle.md section PC arithmetic, 20_memory.md section 1, 92_eei_decisions.md D1, D4, D5, D32) -/
def Obligations.HostOperationsKeepTheInvariant : Prop :=
  ∀ (o : HostOp) (s t : State) (r : HostResult), Inv s → perform o s = .next (t, r) → Inv t ∧ t.cfg = s.cfg

/-- O59: Under every choice of parameters, every state reached from reset by any sequence of Reset, LoadProgram, SetKey, SetKeys, Cycle, Tick, ReadFramebuffer, AckDisplay and Dump meets the invariant (the fault record in it: D4, D5, D32, log 14) and still has those parameters, which the model carries in State (log 1); the operations are those of decision D1 (log 14).
(70_reset_and_hazards.md sections 1 to 3, 60_exceptions.md sections 2 to 6, 40_cycle.md section PC arithmetic, 20_memory.md section 1, 92_eei_decisions.md D1, D4, D5, D32) -/
def Obligations.ReachableStatesMeetTheInvariant : Prop :=
  ∀ (c : Config) (s : State), Reachable c s → Inv s ∧ s.cfg = c
end

