-- ==== Sys2Proof/Laws/Decode.lean ====
section
/-! SUPPORT. The fields of a word as numbers, and the fields of the words the encoder makes. -/

namespace Sys2Proof

/-! ## Fields as numbers (R91) -/

theorem opField_toNat (w : Word) : (opField w).toNat = w.toNat / 0x1000 := by
  have := w.isLt
  simp only [opField, BitVec.extractLsb'_toNat, Nat.shiftRight_eq_div_pow]
  omega

theorem xField_toNat (w : Word) : (xField w).toNat = w.toNat / 0x100 % 16 := by
  simp [xField, BitVec.extractLsb'_toNat, Nat.shiftRight_eq_div_pow]

theorem yField_toNat (w : Word) : (yField w).toNat = w.toNat / 0x10 % 16 := by
  simp [yField, BitVec.extractLsb'_toNat, Nat.shiftRight_eq_div_pow]

theorem nField_toNat (w : Word) : (nField w).toNat = w.toNat % 16 := by
  simp [nField]

theorem nnField_toNat (w : Word) : (nnField w).toNat = w.toNat % 256 := by
  simp [nnField]

theorem nnnField_toNat (w : Word) : (nnnField w).toNat = w.toNat % 4096 := by
  simp [nnnField]

/-! ## The encoder's words as numbers (R92) -/

theorem wordXYN_toNat {op : Nat} (h : op < 16) (x y : Reg) (n : Nat) :
    (wordXYN op x y n).toNat = op * 0x1000 + x.val * 0x100 + y.val * 0x10 + n % 16 := by
  simp only [wordXYN, BitVec.toNat_ofNat]
  omega

theorem wordXNN_toNat {op : Nat} (h : op < 16) (x : Reg) (nn : Byte) :
    (wordXNN op x nn).toNat = op * 0x1000 + x.val * 0x100 + nn.toNat := by
  have := nn.isLt
  simp only [wordXNN, BitVec.toNat_ofNat]
  omega

theorem wordNNN_toNat {op : Nat} (h : op < 16) (nnn : Word) :
    (wordNNN op nnn).toNat = op * 0x1000 + nnn.toNat % 0x1000 := by
  simp only [wordNNN, BitVec.toNat_ofNat]
  omega

/-! ## Masks as arithmetic (R101) -/

/-- The mask 0xF000 keeps the family. -/
theorem mask_family (w : Word) : (w &&& 0xF000#16).toNat = w.toNat / 0x1000 * 0x1000 := by
  have := w.isLt
  have e : w &&& 0xF000#16 = (w >>> 12) <<< 12 := by
    apply BitVec.eq_of_getLsbD_eq
    intro i hi
    have : i < 16 := hi
    interval_cases i <;> simp
  rw [e]
  simp only [BitVec.toNat_shiftLeft, BitVec.toNat_ushiftRight, Nat.shiftRight_eq_div_pow, Nat.shiftLeft_eq]
  omega

/-- The mask 0xF00F keeps the family and `n`. -/
theorem mask_familyN (w : Word) :
    (w &&& 0xF00F#16).toNat = w.toNat / 0x1000 * 0x1000 + w.toNat % 16 := by
  have e : w &&& 0xF00F#16 = (w &&& 0xF000#16) ||| (w &&& 0x000F#16) := by
    rw [← BitVec.and_or_distrib_left]; rfl
  have d : (w &&& 0xF000#16) &&& (w &&& 0x000F#16) = 0#16 := by
    rw [BitVec.and_assoc, BitVec.and_comm w (0x000F#16), ← BitVec.and_assoc 0xF000#16]
    simp
  have low : (w &&& 0x000F#16).toNat = w.toNat % 16 := by
    rw [BitVec.toNat_and]
    exact Nat.and_two_pow_sub_one_eq_mod w.toNat 4
  rw [e, ← BitVec.add_eq_or_of_and_eq_zero _ _ d, BitVec.toNat_add, mask_family, low]
  have := w.isLt
  omega

/-- The mask 0xF0FF keeps the family and `nn`. -/
theorem mask_familyNN (w : Word) :
    (w &&& 0xF0FF#16).toNat = w.toNat / 0x1000 * 0x1000 + w.toNat % 256 := by
  have e : w &&& 0xF0FF#16 = (w &&& 0xF000#16) ||| (w &&& 0x00FF#16) := by
    rw [← BitVec.and_or_distrib_left]; rfl
  have d : (w &&& 0xF000#16) &&& (w &&& 0x00FF#16) = 0#16 := by
    rw [BitVec.and_assoc, BitVec.and_comm w (0x00FF#16), ← BitVec.and_assoc 0xF000#16]
    simp
  have low : (w &&& 0x00FF#16).toNat = w.toNat % 256 := by
    rw [BitVec.toNat_and]
    exact Nat.and_two_pow_sub_one_eq_mod w.toNat 8
  rw [e, ← BitVec.add_eq_or_of_and_eq_zero _ _ d, BitVec.toNat_add, mask_family, low]
  have := w.isLt
  omega

end Sys2Proof
end

