-- ==== Sys2Proof/Laws/State.lean ====
section
/-! SUPPORT. One lemma per field per update of State, true by rfl, so that no proof unfolds a record update;
and how the reads of the state see an update. -/

namespace Sys2Proof.Machine

variable (s : State)

/-! ## setReg -/

@[simp] theorem State.setReg_cfg (x : Reg) (b : Byte) :
    (s.setReg x b).cfg = s.cfg := rfl
@[simp] theorem State.setReg_v (x : Reg) (b : Byte) :
    (s.setReg x b).v = s.v.set x.val b := rfl
@[simp] theorem State.setReg_i (x : Reg) (b : Byte) :
    (s.setReg x b).i = s.i := rfl
@[simp] theorem State.setReg_pc (x : Reg) (b : Byte) :
    (s.setReg x b).pc = s.pc := rfl
@[simp] theorem State.setReg_stack (x : Reg) (b : Byte) :
    (s.setReg x b).stack = s.stack := rfl
@[simp] theorem State.setReg_sp (x : Reg) (b : Byte) :
    (s.setReg x b).sp = s.sp := rfl
@[simp] theorem State.setReg_dt (x : Reg) (b : Byte) :
    (s.setReg x b).dt = s.dt := rfl
@[simp] theorem State.setReg_st (x : Reg) (b : Byte) :
    (s.setReg x b).st = s.st := rfl
@[simp] theorem State.setReg_mem (x : Reg) (b : Byte) :
    (s.setReg x b).mem = s.mem := rfl
@[simp] theorem State.setReg_fb (x : Reg) (b : Byte) :
    (s.setReg x b).fb = s.fb := rfl
@[simp] theorem State.setReg_keys (x : Reg) (b : Byte) :
    (s.setReg x b).keys = s.keys := rfl
@[simp] theorem State.setReg_status (x : Reg) (b : Byte) :
    (s.setReg x b).status = s.status := rfl
@[simp] theorem State.setReg_dirty (x : Reg) (b : Byte) :
    (s.setReg x b).dirty = s.dirty := rfl
@[simp] theorem State.setReg_rndIn (x : Reg) (b : Byte) :
    (s.setReg x b).rndIn = s.rndIn := rfl
@[simp] theorem State.setReg_draws (x : Reg) (b : Byte) :
    (s.setReg x b).draws = s.draws := rfl

/-! ## setRegs -/

@[simp] theorem State.setRegs_cfg (v : Vector Byte 16) :
    (s.setRegs v).cfg = s.cfg := rfl
@[simp] theorem State.setRegs_v (v : Vector Byte 16) :
    (s.setRegs v).v = v := rfl
@[simp] theorem State.setRegs_i (v : Vector Byte 16) :
    (s.setRegs v).i = s.i := rfl
@[simp] theorem State.setRegs_pc (v : Vector Byte 16) :
    (s.setRegs v).pc = s.pc := rfl
@[simp] theorem State.setRegs_stack (v : Vector Byte 16) :
    (s.setRegs v).stack = s.stack := rfl
@[simp] theorem State.setRegs_sp (v : Vector Byte 16) :
    (s.setRegs v).sp = s.sp := rfl
@[simp] theorem State.setRegs_dt (v : Vector Byte 16) :
    (s.setRegs v).dt = s.dt := rfl
@[simp] theorem State.setRegs_st (v : Vector Byte 16) :
    (s.setRegs v).st = s.st := rfl
@[simp] theorem State.setRegs_mem (v : Vector Byte 16) :
    (s.setRegs v).mem = s.mem := rfl
@[simp] theorem State.setRegs_fb (v : Vector Byte 16) :
    (s.setRegs v).fb = s.fb := rfl
@[simp] theorem State.setRegs_keys (v : Vector Byte 16) :
    (s.setRegs v).keys = s.keys := rfl
@[simp] theorem State.setRegs_status (v : Vector Byte 16) :
    (s.setRegs v).status = s.status := rfl
@[simp] theorem State.setRegs_dirty (v : Vector Byte 16) :
    (s.setRegs v).dirty = s.dirty := rfl
@[simp] theorem State.setRegs_rndIn (v : Vector Byte 16) :
    (s.setRegs v).rndIn = s.rndIn := rfl
@[simp] theorem State.setRegs_draws (v : Vector Byte 16) :
    (s.setRegs v).draws = s.draws := rfl

/-! ## setI -/

@[simp] theorem State.setI_cfg (w : Word) :
    (s.setI w).cfg = s.cfg := rfl
@[simp] theorem State.setI_v (w : Word) :
    (s.setI w).v = s.v := rfl
@[simp] theorem State.setI_i (w : Word) :
    (s.setI w).i = w := rfl
@[simp] theorem State.setI_pc (w : Word) :
    (s.setI w).pc = s.pc := rfl
@[simp] theorem State.setI_stack (w : Word) :
    (s.setI w).stack = s.stack := rfl
@[simp] theorem State.setI_sp (w : Word) :
    (s.setI w).sp = s.sp := rfl
@[simp] theorem State.setI_dt (w : Word) :
    (s.setI w).dt = s.dt := rfl
@[simp] theorem State.setI_st (w : Word) :
    (s.setI w).st = s.st := rfl
@[simp] theorem State.setI_mem (w : Word) :
    (s.setI w).mem = s.mem := rfl
@[simp] theorem State.setI_fb (w : Word) :
    (s.setI w).fb = s.fb := rfl
@[simp] theorem State.setI_keys (w : Word) :
    (s.setI w).keys = s.keys := rfl
@[simp] theorem State.setI_status (w : Word) :
    (s.setI w).status = s.status := rfl
@[simp] theorem State.setI_dirty (w : Word) :
    (s.setI w).dirty = s.dirty := rfl
@[simp] theorem State.setI_rndIn (w : Word) :
    (s.setI w).rndIn = s.rndIn := rfl
@[simp] theorem State.setI_draws (w : Word) :
    (s.setI w).draws = s.draws := rfl

/-! ## setPc -/

@[simp] theorem State.setPc_cfg (w : Word) :
    (s.setPc w).cfg = s.cfg := rfl
@[simp] theorem State.setPc_v (w : Word) :
    (s.setPc w).v = s.v := rfl
@[simp] theorem State.setPc_i (w : Word) :
    (s.setPc w).i = s.i := rfl
@[simp] theorem State.setPc_pc (w : Word) :
    (s.setPc w).pc = w := rfl
@[simp] theorem State.setPc_stack (w : Word) :
    (s.setPc w).stack = s.stack := rfl
@[simp] theorem State.setPc_sp (w : Word) :
    (s.setPc w).sp = s.sp := rfl
@[simp] theorem State.setPc_dt (w : Word) :
    (s.setPc w).dt = s.dt := rfl
@[simp] theorem State.setPc_st (w : Word) :
    (s.setPc w).st = s.st := rfl
@[simp] theorem State.setPc_mem (w : Word) :
    (s.setPc w).mem = s.mem := rfl
@[simp] theorem State.setPc_fb (w : Word) :
    (s.setPc w).fb = s.fb := rfl
@[simp] theorem State.setPc_keys (w : Word) :
    (s.setPc w).keys = s.keys := rfl
@[simp] theorem State.setPc_status (w : Word) :
    (s.setPc w).status = s.status := rfl
@[simp] theorem State.setPc_dirty (w : Word) :
    (s.setPc w).dirty = s.dirty := rfl
@[simp] theorem State.setPc_rndIn (w : Word) :
    (s.setPc w).rndIn = s.rndIn := rfl
@[simp] theorem State.setPc_draws (w : Word) :
    (s.setPc w).draws = s.draws := rfl

/-! ## advance -/

@[simp] theorem State.advance_cfg :
    (s.advance).cfg = s.cfg := rfl
@[simp] theorem State.advance_v :
    (s.advance).v = s.v := rfl
@[simp] theorem State.advance_i :
    (s.advance).i = s.i := rfl
@[simp] theorem State.advance_pc :
    (s.advance).pc = s.pc + 2#16 := rfl
@[simp] theorem State.advance_stack :
    (s.advance).stack = s.stack := rfl
@[simp] theorem State.advance_sp :
    (s.advance).sp = s.sp := rfl
@[simp] theorem State.advance_dt :
    (s.advance).dt = s.dt := rfl
@[simp] theorem State.advance_st :
    (s.advance).st = s.st := rfl
@[simp] theorem State.advance_mem :
    (s.advance).mem = s.mem := rfl
@[simp] theorem State.advance_fb :
    (s.advance).fb = s.fb := rfl
@[simp] theorem State.advance_keys :
    (s.advance).keys = s.keys := rfl
@[simp] theorem State.advance_status :
    (s.advance).status = s.status := rfl
@[simp] theorem State.advance_dirty :
    (s.advance).dirty = s.dirty := rfl
@[simp] theorem State.advance_rndIn :
    (s.advance).rndIn = s.rndIn := rfl
@[simp] theorem State.advance_draws :
    (s.advance).draws = s.draws := rfl

/-! ## skipIf -/

@[simp] theorem State.skipIf_cfg (c : Bool) :
    (s.skipIf c).cfg = s.cfg := rfl
@[simp] theorem State.skipIf_v (c : Bool) :
    (s.skipIf c).v = s.v := rfl
@[simp] theorem State.skipIf_i (c : Bool) :
    (s.skipIf c).i = s.i := rfl
@[simp] theorem State.skipIf_pc (c : Bool) :
    (s.skipIf c).pc = if c then s.pc + 4#16 else s.pc + 2#16 := rfl
@[simp] theorem State.skipIf_stack (c : Bool) :
    (s.skipIf c).stack = s.stack := rfl
@[simp] theorem State.skipIf_sp (c : Bool) :
    (s.skipIf c).sp = s.sp := rfl
@[simp] theorem State.skipIf_dt (c : Bool) :
    (s.skipIf c).dt = s.dt := rfl
@[simp] theorem State.skipIf_st (c : Bool) :
    (s.skipIf c).st = s.st := rfl
@[simp] theorem State.skipIf_mem (c : Bool) :
    (s.skipIf c).mem = s.mem := rfl
@[simp] theorem State.skipIf_fb (c : Bool) :
    (s.skipIf c).fb = s.fb := rfl
@[simp] theorem State.skipIf_keys (c : Bool) :
    (s.skipIf c).keys = s.keys := rfl
@[simp] theorem State.skipIf_status (c : Bool) :
    (s.skipIf c).status = s.status := rfl
@[simp] theorem State.skipIf_dirty (c : Bool) :
    (s.skipIf c).dirty = s.dirty := rfl
@[simp] theorem State.skipIf_rndIn (c : Bool) :
    (s.skipIf c).rndIn = s.rndIn := rfl
@[simp] theorem State.skipIf_draws (c : Bool) :
    (s.skipIf c).draws = s.draws := rfl

/-! ## setFlag -/

@[simp] theorem State.setFlag_cfg (f : Bool) :
    (s.setFlag f).cfg = s.cfg := rfl
@[simp] theorem State.setFlag_v (f : Bool) :
    (s.setFlag f).v = s.v.set 15 (flagByte f) := rfl
@[simp] theorem State.setFlag_i (f : Bool) :
    (s.setFlag f).i = s.i := rfl
@[simp] theorem State.setFlag_pc (f : Bool) :
    (s.setFlag f).pc = s.pc := rfl
@[simp] theorem State.setFlag_stack (f : Bool) :
    (s.setFlag f).stack = s.stack := rfl
@[simp] theorem State.setFlag_sp (f : Bool) :
    (s.setFlag f).sp = s.sp := rfl
@[simp] theorem State.setFlag_dt (f : Bool) :
    (s.setFlag f).dt = s.dt := rfl
@[simp] theorem State.setFlag_st (f : Bool) :
    (s.setFlag f).st = s.st := rfl
@[simp] theorem State.setFlag_mem (f : Bool) :
    (s.setFlag f).mem = s.mem := rfl
@[simp] theorem State.setFlag_fb (f : Bool) :
    (s.setFlag f).fb = s.fb := rfl
@[simp] theorem State.setFlag_keys (f : Bool) :
    (s.setFlag f).keys = s.keys := rfl
@[simp] theorem State.setFlag_status (f : Bool) :
    (s.setFlag f).status = s.status := rfl
@[simp] theorem State.setFlag_dirty (f : Bool) :
    (s.setFlag f).dirty = s.dirty := rfl
@[simp] theorem State.setFlag_rndIn (f : Bool) :
    (s.setFlag f).rndIn = s.rndIn := rfl
@[simp] theorem State.setFlag_draws (f : Bool) :
    (s.setFlag f).draws = s.draws := rfl

/-! ## setDt -/

@[simp] theorem State.setDt_cfg (b : Byte) :
    (s.setDt b).cfg = s.cfg := rfl
@[simp] theorem State.setDt_v (b : Byte) :
    (s.setDt b).v = s.v := rfl
@[simp] theorem State.setDt_i (b : Byte) :
    (s.setDt b).i = s.i := rfl
@[simp] theorem State.setDt_pc (b : Byte) :
    (s.setDt b).pc = s.pc := rfl
@[simp] theorem State.setDt_stack (b : Byte) :
    (s.setDt b).stack = s.stack := rfl
@[simp] theorem State.setDt_sp (b : Byte) :
    (s.setDt b).sp = s.sp := rfl
@[simp] theorem State.setDt_dt (b : Byte) :
    (s.setDt b).dt = b := rfl
@[simp] theorem State.setDt_st (b : Byte) :
    (s.setDt b).st = s.st := rfl
@[simp] theorem State.setDt_mem (b : Byte) :
    (s.setDt b).mem = s.mem := rfl
@[simp] theorem State.setDt_fb (b : Byte) :
    (s.setDt b).fb = s.fb := rfl
@[simp] theorem State.setDt_keys (b : Byte) :
    (s.setDt b).keys = s.keys := rfl
@[simp] theorem State.setDt_status (b : Byte) :
    (s.setDt b).status = s.status := rfl
@[simp] theorem State.setDt_dirty (b : Byte) :
    (s.setDt b).dirty = s.dirty := rfl
@[simp] theorem State.setDt_rndIn (b : Byte) :
    (s.setDt b).rndIn = s.rndIn := rfl
@[simp] theorem State.setDt_draws (b : Byte) :
    (s.setDt b).draws = s.draws := rfl

/-! ## setSt -/

@[simp] theorem State.setSt_cfg (b : Byte) :
    (s.setSt b).cfg = s.cfg := rfl
@[simp] theorem State.setSt_v (b : Byte) :
    (s.setSt b).v = s.v := rfl
@[simp] theorem State.setSt_i (b : Byte) :
    (s.setSt b).i = s.i := rfl
@[simp] theorem State.setSt_pc (b : Byte) :
    (s.setSt b).pc = s.pc := rfl
@[simp] theorem State.setSt_stack (b : Byte) :
    (s.setSt b).stack = s.stack := rfl
@[simp] theorem State.setSt_sp (b : Byte) :
    (s.setSt b).sp = s.sp := rfl
@[simp] theorem State.setSt_dt (b : Byte) :
    (s.setSt b).dt = s.dt := rfl
@[simp] theorem State.setSt_st (b : Byte) :
    (s.setSt b).st = b := rfl
@[simp] theorem State.setSt_mem (b : Byte) :
    (s.setSt b).mem = s.mem := rfl
@[simp] theorem State.setSt_fb (b : Byte) :
    (s.setSt b).fb = s.fb := rfl
@[simp] theorem State.setSt_keys (b : Byte) :
    (s.setSt b).keys = s.keys := rfl
@[simp] theorem State.setSt_status (b : Byte) :
    (s.setSt b).status = s.status := rfl
@[simp] theorem State.setSt_dirty (b : Byte) :
    (s.setSt b).dirty = s.dirty := rfl
@[simp] theorem State.setSt_rndIn (b : Byte) :
    (s.setSt b).rndIn = s.rndIn := rfl
@[simp] theorem State.setSt_draws (b : Byte) :
    (s.setSt b).draws = s.draws := rfl

/-! ## setFb -/

@[simp] theorem State.setFb_cfg (f : Framebuffer) :
    (s.setFb f).cfg = s.cfg := rfl
@[simp] theorem State.setFb_v (f : Framebuffer) :
    (s.setFb f).v = s.v := rfl
@[simp] theorem State.setFb_i (f : Framebuffer) :
    (s.setFb f).i = s.i := rfl
@[simp] theorem State.setFb_pc (f : Framebuffer) :
    (s.setFb f).pc = s.pc := rfl
@[simp] theorem State.setFb_stack (f : Framebuffer) :
    (s.setFb f).stack = s.stack := rfl
@[simp] theorem State.setFb_sp (f : Framebuffer) :
    (s.setFb f).sp = s.sp := rfl
@[simp] theorem State.setFb_dt (f : Framebuffer) :
    (s.setFb f).dt = s.dt := rfl
@[simp] theorem State.setFb_st (f : Framebuffer) :
    (s.setFb f).st = s.st := rfl
@[simp] theorem State.setFb_mem (f : Framebuffer) :
    (s.setFb f).mem = s.mem := rfl
@[simp] theorem State.setFb_fb (f : Framebuffer) :
    (s.setFb f).fb = f := rfl
@[simp] theorem State.setFb_keys (f : Framebuffer) :
    (s.setFb f).keys = s.keys := rfl
@[simp] theorem State.setFb_status (f : Framebuffer) :
    (s.setFb f).status = s.status := rfl
@[simp] theorem State.setFb_dirty (f : Framebuffer) :
    (s.setFb f).dirty = s.dirty := rfl
@[simp] theorem State.setFb_rndIn (f : Framebuffer) :
    (s.setFb f).rndIn = s.rndIn := rfl
@[simp] theorem State.setFb_draws (f : Framebuffer) :
    (s.setFb f).draws = s.draws := rfl

/-! ## setDirty -/

@[simp] theorem State.setDirty_cfg (b : Bool) :
    (s.setDirty b).cfg = s.cfg := rfl
@[simp] theorem State.setDirty_v (b : Bool) :
    (s.setDirty b).v = s.v := rfl
@[simp] theorem State.setDirty_i (b : Bool) :
    (s.setDirty b).i = s.i := rfl
@[simp] theorem State.setDirty_pc (b : Bool) :
    (s.setDirty b).pc = s.pc := rfl
@[simp] theorem State.setDirty_stack (b : Bool) :
    (s.setDirty b).stack = s.stack := rfl
@[simp] theorem State.setDirty_sp (b : Bool) :
    (s.setDirty b).sp = s.sp := rfl
@[simp] theorem State.setDirty_dt (b : Bool) :
    (s.setDirty b).dt = s.dt := rfl
@[simp] theorem State.setDirty_st (b : Bool) :
    (s.setDirty b).st = s.st := rfl
@[simp] theorem State.setDirty_mem (b : Bool) :
    (s.setDirty b).mem = s.mem := rfl
@[simp] theorem State.setDirty_fb (b : Bool) :
    (s.setDirty b).fb = s.fb := rfl
@[simp] theorem State.setDirty_keys (b : Bool) :
    (s.setDirty b).keys = s.keys := rfl
@[simp] theorem State.setDirty_status (b : Bool) :
    (s.setDirty b).status = s.status := rfl
@[simp] theorem State.setDirty_dirty (b : Bool) :
    (s.setDirty b).dirty = b := rfl
@[simp] theorem State.setDirty_rndIn (b : Bool) :
    (s.setDirty b).rndIn = s.rndIn := rfl
@[simp] theorem State.setDirty_draws (b : Bool) :
    (s.setDirty b).draws = s.draws := rfl

/-! ## setKeys -/

@[simp] theorem State.setKeys_cfg (k : Vector Bool 16) :
    (s.setKeys k).cfg = s.cfg := rfl
@[simp] theorem State.setKeys_v (k : Vector Bool 16) :
    (s.setKeys k).v = s.v := rfl
@[simp] theorem State.setKeys_i (k : Vector Bool 16) :
    (s.setKeys k).i = s.i := rfl
@[simp] theorem State.setKeys_pc (k : Vector Bool 16) :
    (s.setKeys k).pc = s.pc := rfl
@[simp] theorem State.setKeys_stack (k : Vector Bool 16) :
    (s.setKeys k).stack = s.stack := rfl
@[simp] theorem State.setKeys_sp (k : Vector Bool 16) :
    (s.setKeys k).sp = s.sp := rfl
@[simp] theorem State.setKeys_dt (k : Vector Bool 16) :
    (s.setKeys k).dt = s.dt := rfl
@[simp] theorem State.setKeys_st (k : Vector Bool 16) :
    (s.setKeys k).st = s.st := rfl
@[simp] theorem State.setKeys_mem (k : Vector Bool 16) :
    (s.setKeys k).mem = s.mem := rfl
@[simp] theorem State.setKeys_fb (k : Vector Bool 16) :
    (s.setKeys k).fb = s.fb := rfl
@[simp] theorem State.setKeys_keys (k : Vector Bool 16) :
    (s.setKeys k).keys = k := rfl
@[simp] theorem State.setKeys_status (k : Vector Bool 16) :
    (s.setKeys k).status = s.status := rfl
@[simp] theorem State.setKeys_dirty (k : Vector Bool 16) :
    (s.setKeys k).dirty = s.dirty := rfl
@[simp] theorem State.setKeys_rndIn (k : Vector Bool 16) :
    (s.setKeys k).rndIn = s.rndIn := rfl
@[simp] theorem State.setKeys_draws (k : Vector Bool 16) :
    (s.setKeys k).draws = s.draws := rfl

/-! ## setStatus -/

@[simp] theorem State.setStatus_cfg (t : Status) :
    (s.setStatus t).cfg = s.cfg := rfl
@[simp] theorem State.setStatus_v (t : Status) :
    (s.setStatus t).v = s.v := rfl
@[simp] theorem State.setStatus_i (t : Status) :
    (s.setStatus t).i = s.i := rfl
@[simp] theorem State.setStatus_pc (t : Status) :
    (s.setStatus t).pc = s.pc := rfl
@[simp] theorem State.setStatus_stack (t : Status) :
    (s.setStatus t).stack = s.stack := rfl
@[simp] theorem State.setStatus_sp (t : Status) :
    (s.setStatus t).sp = s.sp := rfl
@[simp] theorem State.setStatus_dt (t : Status) :
    (s.setStatus t).dt = s.dt := rfl
@[simp] theorem State.setStatus_st (t : Status) :
    (s.setStatus t).st = s.st := rfl
@[simp] theorem State.setStatus_mem (t : Status) :
    (s.setStatus t).mem = s.mem := rfl
@[simp] theorem State.setStatus_fb (t : Status) :
    (s.setStatus t).fb = s.fb := rfl
@[simp] theorem State.setStatus_keys (t : Status) :
    (s.setStatus t).keys = s.keys := rfl
@[simp] theorem State.setStatus_status (t : Status) :
    (s.setStatus t).status = t := rfl
@[simp] theorem State.setStatus_dirty (t : Status) :
    (s.setStatus t).dirty = s.dirty := rfl
@[simp] theorem State.setStatus_rndIn (t : Status) :
    (s.setStatus t).rndIn = s.rndIn := rfl
@[simp] theorem State.setStatus_draws (t : Status) :
    (s.setStatus t).draws = s.draws := rfl

/-! ## setMem -/

@[simp] theorem State.setMem_cfg (m : Memory) :
    (s.setMem m).cfg = s.cfg := rfl
@[simp] theorem State.setMem_v (m : Memory) :
    (s.setMem m).v = s.v := rfl
@[simp] theorem State.setMem_i (m : Memory) :
    (s.setMem m).i = s.i := rfl
@[simp] theorem State.setMem_pc (m : Memory) :
    (s.setMem m).pc = s.pc := rfl
@[simp] theorem State.setMem_stack (m : Memory) :
    (s.setMem m).stack = s.stack := rfl
@[simp] theorem State.setMem_sp (m : Memory) :
    (s.setMem m).sp = s.sp := rfl
@[simp] theorem State.setMem_dt (m : Memory) :
    (s.setMem m).dt = s.dt := rfl
@[simp] theorem State.setMem_st (m : Memory) :
    (s.setMem m).st = s.st := rfl
@[simp] theorem State.setMem_mem (m : Memory) :
    (s.setMem m).mem = m := rfl
@[simp] theorem State.setMem_fb (m : Memory) :
    (s.setMem m).fb = s.fb := rfl
@[simp] theorem State.setMem_keys (m : Memory) :
    (s.setMem m).keys = s.keys := rfl
@[simp] theorem State.setMem_status (m : Memory) :
    (s.setMem m).status = s.status := rfl
@[simp] theorem State.setMem_dirty (m : Memory) :
    (s.setMem m).dirty = s.dirty := rfl
@[simp] theorem State.setMem_rndIn (m : Memory) :
    (s.setMem m).rndIn = s.rndIn := rfl
@[simp] theorem State.setMem_draws (m : Memory) :
    (s.setMem m).draws = s.draws := rfl

/-! ## setByte -/

@[simp] theorem State.setByte_cfg (a : Nat) (b : Byte) :
    (s.setByte a b).cfg = s.cfg := rfl
@[simp] theorem State.setByte_v (a : Nat) (b : Byte) :
    (s.setByte a b).v = s.v := rfl
@[simp] theorem State.setByte_i (a : Nat) (b : Byte) :
    (s.setByte a b).i = s.i := rfl
@[simp] theorem State.setByte_pc (a : Nat) (b : Byte) :
    (s.setByte a b).pc = s.pc := rfl
@[simp] theorem State.setByte_stack (a : Nat) (b : Byte) :
    (s.setByte a b).stack = s.stack := rfl
@[simp] theorem State.setByte_sp (a : Nat) (b : Byte) :
    (s.setByte a b).sp = s.sp := rfl
@[simp] theorem State.setByte_dt (a : Nat) (b : Byte) :
    (s.setByte a b).dt = s.dt := rfl
@[simp] theorem State.setByte_st (a : Nat) (b : Byte) :
    (s.setByte a b).st = s.st := rfl
@[simp] theorem State.setByte_mem (a : Nat) (b : Byte) :
    (s.setByte a b).mem = Memory.write s.cfg s.mem a b := rfl
@[simp] theorem State.setByte_fb (a : Nat) (b : Byte) :
    (s.setByte a b).fb = s.fb := rfl
@[simp] theorem State.setByte_keys (a : Nat) (b : Byte) :
    (s.setByte a b).keys = s.keys := rfl
@[simp] theorem State.setByte_status (a : Nat) (b : Byte) :
    (s.setByte a b).status = s.status := rfl
@[simp] theorem State.setByte_dirty (a : Nat) (b : Byte) :
    (s.setByte a b).dirty = s.dirty := rfl
@[simp] theorem State.setByte_rndIn (a : Nat) (b : Byte) :
    (s.setByte a b).rndIn = s.rndIn := rfl
@[simp] theorem State.setByte_draws (a : Nat) (b : Byte) :
    (s.setByte a b).draws = s.draws := rfl

/-! ## push -/

@[simp] theorem State.push_cfg (w : Word) (h : s.sp.val < 16) :
    (s.push w h).cfg = s.cfg := rfl
@[simp] theorem State.push_v (w : Word) (h : s.sp.val < 16) :
    (s.push w h).v = s.v := rfl
@[simp] theorem State.push_i (w : Word) (h : s.sp.val < 16) :
    (s.push w h).i = s.i := rfl
@[simp] theorem State.push_pc (w : Word) (h : s.sp.val < 16) :
    (s.push w h).pc = s.pc := rfl
@[simp] theorem State.push_stack (w : Word) (h : s.sp.val < 16) :
    (s.push w h).stack = s.stack.set s.sp.val w h := rfl
@[simp] theorem State.push_sp (w : Word) (h : s.sp.val < 16) :
    (s.push w h).sp = ⟨s.sp.val + 1, Nat.succ_lt_succ h⟩ := rfl
@[simp] theorem State.push_dt (w : Word) (h : s.sp.val < 16) :
    (s.push w h).dt = s.dt := rfl
@[simp] theorem State.push_st (w : Word) (h : s.sp.val < 16) :
    (s.push w h).st = s.st := rfl
@[simp] theorem State.push_mem (w : Word) (h : s.sp.val < 16) :
    (s.push w h).mem = s.mem := rfl
@[simp] theorem State.push_fb (w : Word) (h : s.sp.val < 16) :
    (s.push w h).fb = s.fb := rfl
@[simp] theorem State.push_keys (w : Word) (h : s.sp.val < 16) :
    (s.push w h).keys = s.keys := rfl
@[simp] theorem State.push_status (w : Word) (h : s.sp.val < 16) :
    (s.push w h).status = s.status := rfl
@[simp] theorem State.push_dirty (w : Word) (h : s.sp.val < 16) :
    (s.push w h).dirty = s.dirty := rfl
@[simp] theorem State.push_rndIn (w : Word) (h : s.sp.val < 16) :
    (s.push w h).rndIn = s.rndIn := rfl
@[simp] theorem State.push_draws (w : Word) (h : s.sp.val < 16) :
    (s.push w h).draws = s.draws := rfl

/-! ## pop -/

@[simp] theorem State.pop_cfg :
    (s.pop).cfg = s.cfg := rfl
@[simp] theorem State.pop_v :
    (s.pop).v = s.v := rfl
@[simp] theorem State.pop_i :
    (s.pop).i = s.i := rfl
@[simp] theorem State.pop_pc :
    (s.pop).pc = s.stack[s.sp.val - 1] := rfl
@[simp] theorem State.pop_stack :
    (s.pop).stack = s.stack := rfl
@[simp] theorem State.pop_sp :
    (s.pop).sp = ⟨s.sp.val - 1, by omega⟩ := rfl
@[simp] theorem State.pop_dt :
    (s.pop).dt = s.dt := rfl
@[simp] theorem State.pop_st :
    (s.pop).st = s.st := rfl
@[simp] theorem State.pop_mem :
    (s.pop).mem = s.mem := rfl
@[simp] theorem State.pop_fb :
    (s.pop).fb = s.fb := rfl
@[simp] theorem State.pop_keys :
    (s.pop).keys = s.keys := rfl
@[simp] theorem State.pop_status :
    (s.pop).status = s.status := rfl
@[simp] theorem State.pop_dirty :
    (s.pop).dirty = s.dirty := rfl
@[simp] theorem State.pop_rndIn :
    (s.pop).rndIn = s.rndIn := rfl
@[simp] theorem State.pop_draws :
    (s.pop).draws = s.draws := rfl

/-! ## takeDraw -/

@[simp] theorem State.takeDraw_cfg :
    (s.takeDraw).cfg = s.cfg := rfl
@[simp] theorem State.takeDraw_v :
    (s.takeDraw).v = s.v := rfl
@[simp] theorem State.takeDraw_i :
    (s.takeDraw).i = s.i := rfl
@[simp] theorem State.takeDraw_pc :
    (s.takeDraw).pc = s.pc := rfl
@[simp] theorem State.takeDraw_stack :
    (s.takeDraw).stack = s.stack := rfl
@[simp] theorem State.takeDraw_sp :
    (s.takeDraw).sp = s.sp := rfl
@[simp] theorem State.takeDraw_dt :
    (s.takeDraw).dt = s.dt := rfl
@[simp] theorem State.takeDraw_st :
    (s.takeDraw).st = s.st := rfl
@[simp] theorem State.takeDraw_mem :
    (s.takeDraw).mem = s.mem := rfl
@[simp] theorem State.takeDraw_fb :
    (s.takeDraw).fb = s.fb := rfl
@[simp] theorem State.takeDraw_keys :
    (s.takeDraw).keys = s.keys := rfl
@[simp] theorem State.takeDraw_status :
    (s.takeDraw).status = s.status := rfl
@[simp] theorem State.takeDraw_dirty :
    (s.takeDraw).dirty = s.dirty := rfl
@[simp] theorem State.takeDraw_rndIn :
    (s.takeDraw).rndIn = none := rfl
@[simp] theorem State.takeDraw_draws :
    (s.takeDraw).draws = s.draws + 1 := rfl

/-! ## setRndIn -/

@[simp] theorem State.setRndIn_cfg (r : Option Byte) :
    (s.setRndIn r).cfg = s.cfg := rfl
@[simp] theorem State.setRndIn_v (r : Option Byte) :
    (s.setRndIn r).v = s.v := rfl
@[simp] theorem State.setRndIn_i (r : Option Byte) :
    (s.setRndIn r).i = s.i := rfl
@[simp] theorem State.setRndIn_pc (r : Option Byte) :
    (s.setRndIn r).pc = s.pc := rfl
@[simp] theorem State.setRndIn_stack (r : Option Byte) :
    (s.setRndIn r).stack = s.stack := rfl
@[simp] theorem State.setRndIn_sp (r : Option Byte) :
    (s.setRndIn r).sp = s.sp := rfl
@[simp] theorem State.setRndIn_dt (r : Option Byte) :
    (s.setRndIn r).dt = s.dt := rfl
@[simp] theorem State.setRndIn_st (r : Option Byte) :
    (s.setRndIn r).st = s.st := rfl
@[simp] theorem State.setRndIn_mem (r : Option Byte) :
    (s.setRndIn r).mem = s.mem := rfl
@[simp] theorem State.setRndIn_fb (r : Option Byte) :
    (s.setRndIn r).fb = s.fb := rfl
@[simp] theorem State.setRndIn_keys (r : Option Byte) :
    (s.setRndIn r).keys = s.keys := rfl
@[simp] theorem State.setRndIn_status (r : Option Byte) :
    (s.setRndIn r).status = s.status := rfl
@[simp] theorem State.setRndIn_dirty (r : Option Byte) :
    (s.setRndIn r).dirty = s.dirty := rfl
@[simp] theorem State.setRndIn_rndIn (r : Option Byte) :
    (s.setRndIn r).rndIn = r := rfl
@[simp] theorem State.setRndIn_draws (r : Option Byte) :
    (s.setRndIn r).draws = s.draws := rfl

/-! ## Reads after updates -/

/-- A register reads back what was written to it, and the others keep their value. -/
theorem State.reg_setReg (x r : Reg) (b : Byte) :
    (s.setReg x b).reg r = if r = x then b else s.reg r := by
  by_cases h : r = x
  · subst h; simp [State.reg]
  · have : x.val ≠ r.val := fun e => h (Fin.ext e.symm)
    simp [State.reg, h, this]

/-- The flag write is a register write of 0 or 1 to VF. -/
theorem State.reg_setFlag (f : Bool) (r : Reg) :
    (s.setFlag f).reg r = if r = VF then flagByte f else s.reg r :=
  s.reg_setReg VF r (flagByte f)

/-- Two states with the same `V` read the same registers. -/
theorem State.reg_congr {s t : State} (h : t.v = s.v) (r : Reg) : t.reg r = s.reg r := by
  simp [State.reg, h]

/-- Two states with the same parameters and memory read the same bytes. -/
theorem State.byteAt_congr {s t : State} (hc : t.cfg = s.cfg) (hm : t.mem = s.mem) (a : Nat) :
    t.byteAt a = s.byteAt a := by
  simp [State.byteAt, hc, hm]

/-- Two states with the same framebuffer show the same pixels. -/
theorem State.pixel_congr {s t : State} (h : t.fb = s.fb) (r : Fin 32) (c : Fin 64) :
    t.pixel r c = s.pixel r c := by
  simp [State.pixel, h]

/-- Two states with the same keypad have the same keys down. -/
theorem State.key_congr {s t : State} (h : t.keys = s.keys) (k : Fin 16) : t.key k = s.key k := by
  simp [State.key, h]

end Sys2Proof.Machine
end

