-- ==== Sys2Proof/Laws/Memory.lean ====
section
/-! SUPPORT. What the memory operations do: a read after a write, and the canonical form. -/

namespace Sys2Proof.Machine

/-! ## Reads after writes -/

theorem Memory.lookup_insert (m : Memory) (a : Nat) (b : Byte) (c : Nat) :
    Memory.lookup (Memory.insert m a b) c = if c = a then some b else Memory.lookup m c := by
  induction m with
  | nil => by_cases h : a = c <;> simp [Memory.insert, Memory.lookup, h, eq_comm]
  | cons e rest ih =>
    obtain ⟨k, v⟩ := e
    unfold Memory.insert
    split
    · by_cases h : a = c <;> simp [Memory.lookup, h, eq_comm]
    · split
      · subst_vars
        by_cases h : k = c
        · simp [Memory.lookup, h]
        · simp [Memory.lookup, h, Ne.symm h]
      · simp only [Memory.lookup, ih]
        by_cases hk : k = c
        · have : ¬ c = a := by omega
          simp [hk, this]
        · simp [hk]

theorem Memory.lookup_erase (m : Memory) (a c : Nat) :
    Memory.lookup (Memory.erase m a) c = if c = a then none else Memory.lookup m c := by
  induction m with
  | nil => simp [Memory.erase, Memory.lookup]
  | cons e rest ih =>
    obtain ⟨k, v⟩ := e
    unfold Memory.erase
    split
    · rename_i h
      rw [ih]
      by_cases hc : c = a
      · simp [hc]
      · have : ¬ k = c := by omega
        simp [hc, Memory.lookup, this]
    · simp only [Memory.lookup, ih]
      by_cases hk : k = c
      · have : ¬ c = a := by omega
        simp [hk, this]
      · simp [hk]

/-- Everything a write does to the bytes of memory: an in-range address reads as the byte written, every
other address as before. -/
theorem Memory.read_write (c : Config) (m : Memory) (a : Nat) (b : Byte) (d : Nat) :
    Memory.read c (Memory.write c m a b) d = if d = a ∧ a < 4096 then b else Memory.read c m d := by
  unfold Memory.write
  split
  · rename_i ha
    split
    · rename_i hb
      unfold Memory.read
      rw [Memory.lookup_erase]
      by_cases hd : d = a <;> simp [hd, ha, hb]
    · unfold Memory.read
      rw [Memory.lookup_insert]
      by_cases hd : d = a <;> simp [hd, ha]
  · rename_i ha
    simp [ha]

/-- `MemWrite` then `MemRead` on a state (R62). -/
theorem State.byteAt_setByte (s : State) (a : Nat) (b : Byte) (d : Nat) :
    (s.setByte a b).byteAt d = if d = a ∧ a < 4096 then b else s.byteAt d :=
  Memory.read_write s.cfg s.mem a b d

/-! ## The canonical form -/

theorem Memory.risesFrom_mono {lo hi : Nat} (h : lo ≤ hi) {m : Memory} (hm : Memory.risesFrom hi m = true) :
    Memory.risesFrom lo m = true := by
  cases m with
  | nil => rfl
  | cons e rest =>
    obtain ⟨k, v⟩ := e
    simp only [Memory.risesFrom, Bool.and_eq_true, decide_eq_true_eq] at hm ⊢
    exact ⟨by omega, hm.2⟩

theorem Memory.risesFrom_insert {lo : Nat} {m : Memory} (a : Nat) (b : Byte) (h : lo ≤ a)
    (hm : Memory.risesFrom lo m = true) : Memory.risesFrom lo (Memory.insert m a b) = true := by
  induction m generalizing lo with
  | nil => simpa [Memory.insert, Memory.risesFrom] using h
  | cons e rest ih =>
    obtain ⟨k, v⟩ := e
    simp only [Memory.risesFrom, Bool.and_eq_true, decide_eq_true_eq] at hm
    unfold Memory.insert
    split
    · simp only [Memory.risesFrom, Bool.and_eq_true, decide_eq_true_eq]
      exact ⟨h, by omega, hm.2⟩
    · split
      · subst_vars
        simp only [Memory.risesFrom, Bool.and_eq_true, decide_eq_true_eq]
        exact ⟨h, hm.2⟩
      · simp only [Memory.risesFrom, Bool.and_eq_true, decide_eq_true_eq]
        exact ⟨hm.1, ih (by omega) hm.2⟩

theorem Memory.risesFrom_erase {lo : Nat} {m : Memory} (a : Nat)
    (hm : Memory.risesFrom lo m = true) : Memory.risesFrom lo (Memory.erase m a) = true := by
  induction m generalizing lo with
  | nil => rfl
  | cons e rest ih =>
    obtain ⟨k, v⟩ := e
    simp only [Memory.risesFrom, Bool.and_eq_true, decide_eq_true_eq] at hm
    unfold Memory.erase
    split
    · exact Memory.risesFrom_mono (by omega) (ih hm.2)
    · simp only [Memory.risesFrom, Bool.and_eq_true, decide_eq_true_eq]
      exact ⟨hm.1, ih hm.2⟩

theorem Memory.mem_insert {m : Memory} {a : Nat} {b : Byte} {e : Host.Cell}
    (h : e ∈ Memory.insert m a b) : e = (a, b) ∨ e ∈ m := by
  induction m with
  | nil => simpa [Memory.insert] using h
  | cons f rest ih =>
    obtain ⟨k, v⟩ := f
    unfold Memory.insert at h
    split at h
    · simpa using h
    · split at h
      · rcases List.mem_cons.mp h with h | h
        · exact .inl h
        · exact .inr (List.mem_cons_of_mem _ h)
      · rcases List.mem_cons.mp h with h | h
        · exact .inr (by simp [h])
        · exact (ih h).imp_right (List.mem_cons_of_mem _)

theorem Memory.mem_erase {m : Memory} {a : Nat} {e : Host.Cell} (h : e ∈ Memory.erase m a) : e ∈ m := by
  induction m with
  | nil => exact h
  | cons f rest ih =>
    obtain ⟨k, v⟩ := f
    unfold Memory.erase at h
    split at h
    · exact List.mem_cons_of_mem _ (ih h)
    · rcases List.mem_cons.mp h with h | h
      · simp [h]
      · exact List.mem_cons_of_mem _ (ih h)

/-- The canonical form, said in words. -/
theorem Memory.wf_iff (c : Config) (m : Memory) :
    Memory.wf c m = true ↔
      Memory.risesFrom 0 m = true ∧ ∀ e ∈ m, e.1 < 4096 ∧ e.2 ≠ resetByte c e.1 := by
  simp [Memory.wf]

/-- The one write to memory keeps the canonical form. -/
theorem Memory.wf_write {c : Config} {m : Memory} (a : Nat) (b : Byte) (h : Memory.wf c m = true) :
    Memory.wf c (Memory.write c m a b) = true := by
  rw [Memory.wf_iff] at h ⊢
  unfold Memory.write
  split
  · rename_i ha
    split
    · exact ⟨Memory.risesFrom_erase a h.1, fun e he => h.2 e (Memory.mem_erase he)⟩
    · rename_i hb
      refine ⟨Memory.risesFrom_insert a b (Nat.zero_le _) h.1, fun e he => ?_⟩
      rcases Memory.mem_insert he with rfl | he
      · exact ⟨ha, hb⟩
      · exact h.2 e he
  · exact h

/-- The empty memory of reset is canonical. -/
theorem Memory.wf_reset (c : Config) : Memory.wf c (State.boot c).mem = true := rfl

/-! ## Runs of bytes -/

@[simp] theorem State.setBytes_cfg (s : State) (base : Nat) (bs : List Byte) :
    (s.setBytes base bs).cfg = s.cfg := by
  induction bs generalizing s base with
  | nil => rfl
  | cons b bs ih => simp [State.setBytes, ih]

/-- A run of byte writes is a change of memory alone. -/
theorem State.setBytes_eq (s : State) (base : Nat) (bs : List Byte) :
    s.setBytes base bs = s.setMem (s.setBytes base bs).mem := by
  induction bs generalizing s base with
  | nil => rfl
  | cons b bs ih =>
    rw [State.setBytes, ih]
    rfl

/-- A run of byte writes keeps the canonical form. -/
theorem State.wf_setBytes (s : State) (base : Nat) (bs : List Byte) (h : Memory.wf s.cfg s.mem = true) :
    Memory.wf s.cfg (s.setBytes base bs).mem = true := by
  induction bs generalizing s base with
  | nil => exact h
  | cons b bs ih => exact ih (s.setByte base b) (base + 1) (Memory.wf_write base b h)

/-- Every byte after a run of writes that stays in range: the bytes written, and all others as before. -/
theorem State.byteAt_setBytes (s : State) (base : Nat) (bs : List Byte) (h : base + bs.length ≤ 4096) (a : Nat) :
    (s.setBytes base bs).byteAt a =
      if base ≤ a ∧ a < base + bs.length then bs.getD (a - base) 0#8 else s.byteAt a := by
  induction bs generalizing s base with
  | nil => simp [State.setBytes]
  | cons b bs ih =>
    simp only [List.length_cons] at h ⊢
    rw [State.setBytes, ih _ _ (by omega), State.byteAt_setByte]
    by_cases h1 : base + 1 ≤ a ∧ a < base + 1 + bs.length
    · have h2 : base ≤ a ∧ a < base + (bs.length + 1) := by omega
      obtain ⟨d, rfl⟩ : ∃ d, a = base + 1 + d := ⟨a - (base + 1), by omega⟩
      have e1 : base + 1 + d - (base + 1) = d := by omega
      have e2 : base + 1 + d - base = d + 1 := by omega
      rw [if_pos h1, if_pos h2, e1, e2, List.getD_cons_succ]
    · rw [if_neg h1]
      by_cases h3 : a = base
      · subst h3
        have : a < 4096 := by omega
        have h2 : a ≤ a ∧ a < a + (bs.length + 1) := by omega
        rw [if_pos ⟨rfl, this⟩, if_pos h2]
        simp
      · have h2 : ¬ (base ≤ a ∧ a < base + (bs.length + 1)) := by omega
        rw [if_neg (fun e => h3 e.1), if_neg h2]

end Sys2Proof.Machine
end

