-- ==== Sys2Proof/Laws/Ops.lean ====
section
/-! SUPPORT. One lemma per shared operation that says once everything it can do. -/

namespace Sys2Proof.Machine

/-! ## Range checks and faults -/

/-- The range check finds nothing exactly when every byte is in range; otherwise it finds the lowest
address that is not (R73). -/
theorem firstOutOfRange_eq (base n : Nat) :
    firstOutOfRange base n = if n = 0 ∨ base + n ≤ 4096 then none else some (max base 4096) := by
  induction n generalizing base with
  | zero => simp [firstOutOfRange]
  | succ n ih =>
    unfold firstOutOfRange
    by_cases hb : base < 4096
    · rw [if_pos hb, ih]
      by_cases hn : base + 1 + n ≤ 4096
      · have : base + (n + 1) ≤ 4096 := by omega
        simp [hn, this]
      · have h0 : ¬ n = 0 := by omega
        have h1 : ¬ base + (n + 1) ≤ 4096 := by omega
        have e : max (base + 1) 4096 = max base 4096 := by omega
        simp [hn, h0, h1, e]
    · have h1 : ¬ base + (n + 1) ≤ 4096 := by omega
      have e : max base 4096 = base := by omega
      simp [hb, h1, e]

/-- Taking a fault answers a next state that differs in `status` alone (R309). -/
theorem raise_eq (name : Fault) (word : Option Word) (info : Nat) (s : State) :
    raise name word info s = .next (s.setStatus (.halted ⟨name, s.pc, word, info⟩)) := rfl

/-- The two ways out of the range check of a memory instruction. -/
theorem withRange_eq (base n : Nat) (i : Instr) (s : State) (k : Result) :
    withRange base n i s k =
      if n = 0 ∨ base + n ≤ 4096 then k
      else .next (s.setStatus (.halted ⟨.memoryFault, s.pc, some (encode i), max base 4096⟩)) := by
  unfold withRange
  rw [firstOutOfRange_eq]
  split <;> rename_i h <;> split at h <;> simp_all [raise_eq]

/-- The two ways out of the key check. -/
theorem withKey_eq (x : Reg) (i : Instr) (s : State) (k : Bool → Result) :
    withKey x i s k =
      if h : (s.reg x).toNat < 16 then k (s.key ⟨(s.reg x).toNat, h⟩)
      else .next (s.setStatus (.halted ⟨.invalidKeyIndex, s.pc, some (encode i), (s.reg x).toNat⟩)) := rfl

/-- The fetch: the big-endian word at `PC`, or the first address out of range (R63, R65). -/
theorem State.fetch_eq (s : State) :
    s.fetch =
      if s.pc.toNat + 1 < 4096 then .ok (wordOfBytes (s.byteAt s.pc.toNat) (s.byteAt (s.pc.toNat + 1)))
      else .error (max s.pc.toNat 4096) := by
  unfold State.fetch
  rw [firstOutOfRange_eq]
  by_cases h : s.pc.toNat + 1 < 4096
  · have : s.pc.toNat + 2 ≤ 4096 := by omega
    simp [h, this]
  · have : ¬ s.pc.toNat + 2 ≤ 4096 := by omega
    simp [h, this]

/-! ## One step, once and for all -/

/-- Everything a step can do: stay halted, take a fetch fault, run the decoded instruction, or pass over an
unknown word (R120). -/
theorem cycle_cases (s : State) :
    (∃ f, s.status = .halted f ∧ cycle s = .next s) ∨
    (s.status = .running ∧ ¬ s.pc.toNat + 1 < 4096 ∧
      cycle s = .next (s.setStatus (.halted ⟨.memoryFault, s.pc, none, max s.pc.toNat 4096⟩))) ∨
    (∃ i, s.status = .running ∧ s.pc.toNat + 1 < 4096 ∧
      decodeWord (wordOfBytes (s.byteAt s.pc.toNat) (s.byteAt (s.pc.toNat + 1))) = .ok i ∧
      cycle s = exec i s) ∨
    (∃ e, s.status = .running ∧ s.pc.toNat + 1 < 4096 ∧
      decodeWord (wordOfBytes (s.byteAt s.pc.toNat) (s.byteAt (s.pc.toNat + 1))) = .error e ∧
      cycle s = .next s.advance) := by
  cases hs : s.status with
  | halted f => exact .inl ⟨f, rfl, by simp [cycle, hs]⟩
  | running =>
    by_cases hp : s.pc.toNat + 1 < 4096
    · cases hd : decodeWord (wordOfBytes (s.byteAt s.pc.toNat) (s.byteAt (s.pc.toNat + 1))) with
      | ok i => exact .inr (.inr (.inl ⟨i, rfl, hp, rfl, by simp [cycle, hs, State.fetch_eq, hp, hd]⟩))
      | error e =>
        exact .inr (.inr (.inr ⟨e, rfl, hp, rfl, by simp [cycle, hs, State.fetch_eq, hp, hd, skipUnknown]⟩))
    · exact .inr (.inl ⟨rfl, hp, by simp [cycle, hs, State.fetch_eq, hp, raise_eq]⟩)

/-! ## One host operation, once and for all -/

/-- Everything a host operation can do to the state (R324). -/
theorem perform_cases {o : HostOp} {s t : State} {r : HostResult} (h : perform o s = .next (t, r)) :
    (o = .reset ∧ t = s.resetAll) ∨
    (∃ rnd u c, o = .cycle rnd ∧ step (s.setRndIn (some rnd)) = .next u ∧
      cycleResult (s.setRndIn (some rnd)) = .next c ∧ t = u.setRndIn none ∧ r = .cycle c) ∨
    (o = .tick ∧ t = (s.setDt (tickTimer s.dt)).setSt (tickTimer s.st)) ∨
    (o = .ackDisplay ∧ t = s.setDirty false) ∨
    (∃ bytes m, o = .loadProgram bytes ∧ t = s.setMem m ∧
      (Memory.wf s.cfg s.mem = true → Memory.wf s.cfg m = true)) ∨
    (∃ k, t = s.setKeys k ∧ (o = .setKeys k ∨ ∃ index pressed, o = .setKey index pressed)) ∨
    (t = s ∧ (o = .readFramebuffer ∨ o = .dump)) := by
  cases o with
  | reset => cases h; exact .inl ⟨rfl, rfl⟩
  | cycle rnd =>
    simp only [perform, State.cycleWith] at h
    split at h
    · rename_i u c hu hc
      cases h
      exact .inr (.inl ⟨rnd, u, c, rfl, hu, hc, rfl, rfl⟩)
    all_goals cases h
  | tick => cases h; exact .inr (.inr (.inl ⟨rfl, rfl⟩))
  | ackDisplay => cases h; exact .inr (.inr (.inr (.inl ⟨rfl, rfl⟩)))
  | loadProgram bytes =>
    refine .inr (.inr (.inr (.inr (.inl ?_))))
    simp only [perform, State.loadProgram] at h
    split at h <;> cases h
    · exact ⟨bytes, s.mem, rfl, rfl, id⟩
    · exact ⟨bytes, _, rfl, State.setBytes_eq s 0x200 bytes, State.wf_setBytes s 0x200 bytes⟩
  | setKey index pressed =>
    refine .inr (.inr (.inr (.inr (.inr (.inl ?_)))))
    simp only [perform, State.pressKey] at h
    split at h <;> cases h
    · exact ⟨_, rfl, .inr ⟨index, pressed, rfl⟩⟩
    · exact ⟨s.keys, rfl, .inr ⟨index, pressed, rfl⟩⟩
  | setKeys v => cases h; exact .inr (.inr (.inr (.inr (.inr (.inl ⟨v, rfl, .inl rfl⟩)))))
  | readFramebuffer => cases h; exact .inr (.inr (.inr (.inr (.inr (.inr ⟨rfl, .inl rfl⟩)))))
  | dump => cases h; exact .inr (.inr (.inr (.inr (.inr (.inr ⟨rfl, .inr rfl⟩)))))

/-! ## Register transfers -/

/-- The registers after `Fx65` loaded `n` of them: the loaded ones hold the bytes, the others are as before. -/
theorem State.loadedRegs_get (s : State) (base n : Nat) (r : Nat) (hr : r < 16) :
    (s.loadedRegs base n)[r] = if r < n then s.byteAt (base + r) else s.v[r] := by
  induction n with
  | zero => simp [State.loadedRegs]
  | succ n ih =>
    simp only [State.loadedRegs, Vector.getElem_setIfInBounds, ih]
    by_cases h : n = r
    · subst h; simp
    · by_cases h2 : r < n
      · have : r < n + 1 := by omega
        simp [h, h2, this]
      · have : ¬ r < n + 1 := by omega
        simp [h, h2, this]

/-- The list `Fx55` stores has `x + 1` bytes. -/
theorem State.regsUpTo_length (s : State) (x : Reg) : (s.regsUpTo x).length = x.val + 1 := by
  have := x.isLt
  simp [State.regsUpTo]

/-- The `j`-th byte `Fx55` stores is `V[j]`. -/
theorem State.regsUpTo_getD (s : State) (x : Reg) (j : Reg) (h : j.val ≤ x.val) :
    (s.regsUpTo x).getD j.val 0#8 = s.reg j := by
  have hj : j.val < x.val + 1 := by omega
  simp [State.regsUpTo, State.reg, List.getD, hj]

/-! ## The keypad -/

theorem mem_keyIndices (k : Fin 16) : k ∈ keyIndices := by
  revert k; decide

/-- No key is found exactly when every key is up. -/
theorem State.lowestKeyDown_eq_none (s : State) :
    s.lowestKeyDown = none ↔ ∀ k, s.key k = false := by
  simp [State.lowestKeyDown, mem_keyIndices]

/-- The key found is down, and every lower one is up. -/
theorem State.lowestKeyDown_eq_some (s : State) (k : Fin 16) (h : s.lowestKeyDown = some k) :
    s.key k = true ∧ ∀ j, j < k → s.key j = false := by
  unfold State.lowestKeyDown at h
  rw [List.find?_eq_some_iff_append] at h
  obtain ⟨hk, as, bs, hl, hall⟩ := h
  refine ⟨hk, fun j hj => ?_⟩
  have hmem : j ∈ as := by
    have hj' := mem_keyIndices j
    have hs : keyIndices.Pairwise (· < ·) := by decide
    rw [hl] at hj' hs
    rcases List.mem_append.mp hj' with h' | h'
    · exact h'
    · exfalso
      rcases List.mem_cons.mp h' with rfl | h''
      · exact lt_irrefl _ hj
      · have := (List.pairwise_cons.mp (List.pairwise_append.mp hs).2.1).1 j h''
        exact lt_asymm hj this
  simpa using hall j hmem

end Sys2Proof.Machine
end

