-- ==== Sys2Proof/Laws/Draw.lean ====
section
/-! SUPPORT. The drawing loop in closed form: which pixels a sprite changes and when it collides (R242, R243). -/

namespace Sys2Proof.Machine

/-- A flip changes its own pixel and no other. -/
theorem Framebuffer.pixel_flip (f : Framebuffer) (r r' : Fin 32) (c c' : Fin 64) :
    (f.flip r c).pixel r' c' = if r' = r ∧ c' = c then !f.pixel r c else f.pixel r' c' := by
  unfold Framebuffer.flip Framebuffer.pixel
  by_cases hr : r' = r
  · subst hr
    by_cases hc : c' = c
    · subst hc; simp
    · have : c.val ≠ c'.val := fun e => hc (Fin.ext e.symm)
      simp [hc, this]
  · have : r.val ≠ r'.val := fun e => hr (Fin.ext e.symm)
    simp [hr, this]

theorem colAt_inj {cx j k : Nat} (hj : j < 64) (hk : k < 64) (h : colAt cx j = colAt cx k) : j = k := by
  have := congrArg Fin.val h
  simp only [colAt] at this
  omega

theorem rowAt_inj {cy a b : Nat} (ha : a < 32) (hb : b < 32) (h : rowAt cy a = rowAt cy b) : a = b := by
  have := congrArg Fin.val h
  simp only [rowAt] at this
  omega

/-- The pixel `(r, c)` lies under a set bit among the first `m` of a sprite row. -/
def RowCovers (cx cy b : Nat) (row : Byte) (m : Nat) (r : Fin 32) (c : Fin 64) : Prop :=
  ∃ k, k < m ∧ row.getLsbD (7 - k) = true ∧ r = rowAt cy b ∧ c = colAt cx k

theorem Drawing.bit_pixel (cx cy b : Nat) (row : Byte) (d : Drawing) (k : Nat) (r : Fin 32) (c : Fin 64) :
    (Drawing.bit cx cy b row d k).fb.pixel r c ≠ d.fb.pixel r c ↔
      row.getLsbD (7 - k) = true ∧ r = rowAt cy b ∧ c = colAt cx k := by
  unfold Drawing.bit
  split
  · rename_i h
    simp only [Framebuffer.pixel_flip, h, true_and]
    by_cases hp : r = rowAt cy b ∧ c = colAt cx k
    · obtain ⟨rfl, rfl⟩ := hp
      simp
    · simp [hp]
  · rename_i h
    simp [h]

theorem Drawing.bit_collide (cx cy b : Nat) (row : Byte) (d : Drawing) (k : Nat) :
    (Drawing.bit cx cy b row d k).collide = true ↔
      d.collide = true ∨ (row.getLsbD (7 - k) = true ∧ d.fb.pixel (rowAt cy b) (colAt cx k) = true) := by
  unfold Drawing.bit
  split <;> rename_i h <;> simp [h]

/-- Two successive changes of a Boolean, of which not both happen. -/
theorem changes_trans {a b c : Bool} {p q : Prop} (h1 : b ≠ a ↔ p) (h2 : c ≠ b ↔ q) (h : ¬ (p ∧ q)) :
    c ≠ a ↔ p ∨ q := by
  rw [← h1, ← h2] at *
  revert h
  cases a <;> cases b <;> cases c <;> simp

/-- The first `m ≤ 8` bits of a row: they change the pixels under set bits, and collide when one of those
was lit before the row. -/
theorem Drawing.bits_spec (cx cy b : Nat) (row : Byte) (d : Drawing) (m : Nat) (hm : m ≤ 8) :
    (∀ r c, ((List.range m).foldl (Drawing.bit cx cy b row) d).fb.pixel r c ≠ d.fb.pixel r c ↔
      RowCovers cx cy b row m r c) ∧
    (((List.range m).foldl (Drawing.bit cx cy b row) d).collide = true ↔
      d.collide = true ∨ ∃ r c, RowCovers cx cy b row m r c ∧ d.fb.pixel r c = true) := by
  induction m with
  | zero => simp [RowCovers]
  | succ m ih =>
    obtain ⟨ihp, ihc⟩ := ih (by omega)
    have untouched : ∀ r c, r = rowAt cy b ∧ c = colAt cx m → ¬ RowCovers cx cy b row m r c := by
      rintro r c ⟨rfl, rfl⟩ ⟨k, hk, -, -, hc⟩
      have := colAt_inj (by omega) (by omega) hc
      omega
    have covers_succ : ∀ r c, RowCovers cx cy b row (m + 1) r c ↔
        RowCovers cx cy b row m r c ∨ (row.getLsbD (7 - m) = true ∧ r = rowAt cy b ∧ c = colAt cx m) := by
      intro r c
      constructor
      · rintro ⟨k, hk, h⟩
        rcases Nat.lt_succ_iff_lt_or_eq.mp hk with h' | rfl
        · exact .inl ⟨k, h', h⟩
        · exact .inr h
      · rintro (⟨k, hk, h⟩ | h)
        · exact ⟨k, by omega, h⟩
        · exact ⟨m, by omega, h⟩
    simp only [List.range_succ, List.foldl_append, List.foldl_cons, List.foldl_nil]
    constructor
    · intro r c
      rw [covers_succ]
      exact changes_trans (ihp r c) (Drawing.bit_pixel ..) fun h => untouched r c h.2.2 h.1
    · rw [Drawing.bit_collide, ihc]
      have same : ((List.range m).foldl (Drawing.bit cx cy b row) d).fb.pixel (rowAt cy b) (colAt cx m) =
          d.fb.pixel (rowAt cy b) (colAt cx m) := by
        by_contra h
        exact untouched _ _ ⟨rfl, rfl⟩ ((ihp _ _).mp h)
      rw [same]
      constructor
      · rintro ((h | ⟨r, c, h, hp⟩) | ⟨h, hp⟩)
        · exact .inl h
        · exact .inr ⟨r, c, (covers_succ r c).mpr (.inl h), hp⟩
        · exact .inr ⟨_, _, (covers_succ _ _).mpr (.inr ⟨h, rfl, rfl⟩), hp⟩
      · rintro (h | ⟨r, c, h, hp⟩)
        · exact .inl (.inl h)
        · rcases (covers_succ r c).mp h with h' | ⟨hb, rfl, rfl⟩
          · exact .inl (.inr ⟨r, c, h', hp⟩)
          · exact .inr ⟨hb, hp⟩

/-- The pixel `(r, c)` lies under a set bit of the `n`-row sprite at `base`, drawn at column `cx`, row `cy`. -/
def State.Covers (s : State) (cx cy base n : Nat) (r : Fin 32) (c : Fin 64) : Prop :=
  ∃ b, b < n ∧ RowCovers cx cy b (s.byteAt (base + b)) 8 r c

/-- The whole drawing: it changes exactly the pixels under set sprite bits, and collides exactly when one of
those was lit before the draw. -/
theorem State.drawSprite_spec (s : State) (cx cy base n : Nat) (hn : n ≤ 32) :
    (∀ r c, (s.drawSprite cx cy base n).fb.pixel r c ≠ s.pixel r c ↔ s.Covers cx cy base n r c) ∧
    ((s.drawSprite cx cy base n).collide = true ↔
      ∃ r c, s.Covers cx cy base n r c ∧ s.pixel r c = true) := by
  unfold State.drawSprite
  induction n with
  | zero => simp [State.Covers, State.pixel]
  | succ n ih =>
    obtain ⟨ihp, ihc⟩ := ih (by omega)
    generalize hd : (List.range n).foldl (fun d b => Drawing.row cx cy b (s.byteAt (base + b)) d)
      { fb := s.fb, collide := false } = d at ihp ihc
    simp only [List.range_succ, List.foldl_append, List.foldl_cons, List.foldl_nil, hd]
    obtain ⟨rowp, rowc⟩ := Drawing.bits_spec cx cy n (s.byteAt (base + n)) d 8 (le_refl 8)
    have disjoint : ∀ r c, RowCovers cx cy n (s.byteAt (base + n)) 8 r c → ¬ s.Covers cx cy base n r c := by
      rintro r c ⟨-, -, -, rfl, -⟩ ⟨b, hb, -, -, -, hr, -⟩
      have := rowAt_inj (by omega) (by omega) hr
      omega
    have covers_succ : ∀ r c, s.Covers cx cy base (n + 1) r c ↔
        s.Covers cx cy base n r c ∨ RowCovers cx cy n (s.byteAt (base + n)) 8 r c := by
      intro r c
      constructor
      · rintro ⟨b, hb, h⟩
        rcases Nat.lt_succ_iff_lt_or_eq.mp hb with h' | rfl
        · exact .inl ⟨b, h', h⟩
        · exact .inr h
      · rintro (⟨b, hb, h⟩ | h)
        · exact ⟨b, by omega, h⟩
        · exact ⟨n, by omega, h⟩
    constructor
    · intro r c
      rw [covers_succ]
      exact changes_trans (ihp r c) (rowp r c) fun ⟨h1, h2⟩ => disjoint r c h2 h1
    · refine rowc.trans ?_
      rw [ihc]
      have same : ∀ r c, RowCovers cx cy n (s.byteAt (base + n)) 8 r c → d.fb.pixel r c = s.pixel r c := by
        intro r c h
        by_contra hne
        exact disjoint r c h ((ihp r c).mp hne)
      constructor
      · rintro (⟨r, c, h, hp⟩ | ⟨r, c, h, hp⟩)
        · exact ⟨r, c, (covers_succ r c).mpr (.inl h), hp⟩
        · exact ⟨r, c, (covers_succ r c).mpr (.inr h), same r c h ▸ hp⟩
      · rintro ⟨r, c, h, hp⟩
        rcases (covers_succ r c).mp h with h | h
        · exact .inl ⟨r, c, h, hp⟩
        · exact .inr ⟨r, c, h, (same r c h).symm ▸ hp⟩

end Sys2Proof.Machine
end

