-- ==== Sys2Proof/Laws/PerInstr.lean ====
section
/-! SUPPORT. Per-instruction laws over the syntax: every instruction's word fits its row of the opcode map. -/

namespace Sys2Proof.Laws.EncodeFitsRow

/-- The word of `i` has the fixed bits of `i`'s row (R101). -/
def Statement (i : Instr) : Prop := (rowOf i).holds (encode i)

/-- A format `NNN` word fits the row of its family. -/
theorem nnn_row {op : Nat} (h : op < 16) (nnn : Word) :
    wordNNN op nnn &&& 0xF000#16 = BitVec.ofNat 16 (op * 0x1000) := by
  apply BitVec.eq_of_toNat_eq
  rw [mask_family, wordNNN_toNat h, BitVec.toNat_ofNat]
  omega

/-- A format `XNN` word fits the row of its family. -/
theorem xnn_row {op : Nat} (h : op < 16) (x : Reg) (nn : Byte) :
    wordXNN op x nn &&& 0xF000#16 = BitVec.ofNat 16 (op * 0x1000) := by
  apply BitVec.eq_of_toNat_eq
  have := nn.isLt
  rw [mask_family, wordXNN_toNat h, BitVec.toNat_ofNat]
  omega

/-- A format `X` word fits the row of its family and selector `nn`. -/
theorem x_row {op : Nat} (h : op < 16) (x : Reg) (nn : Byte) :
    wordXNN op x nn &&& 0xF0FF#16 = BitVec.ofNat 16 (op * 0x1000 + nn.toNat) := by
  apply BitVec.eq_of_toNat_eq
  have := nn.isLt
  rw [mask_familyNN, wordXNN_toNat h, BitVec.toNat_ofNat]
  omega

/-- A format `XY` word fits the row of its family and selector `n`. -/
theorem xy_row {op n : Nat} (h : op < 16) (hn : n < 16) (x y : Reg) :
    wordXYN op x y n &&& 0xF00F#16 = BitVec.ofNat 16 (op * 0x1000 + n) := by
  apply BitVec.eq_of_toNat_eq
  rw [mask_familyN, wordXYN_toNat h, BitVec.toNat_ofNat]
  omega

/-- A format `XYN` word fits the row of its family. -/
theorem xyn_row {op : Nat} (h : op < 16) (x y : Reg) (n : Nat) :
    wordXYN op x y n &&& 0xF000#16 = BitVec.ofNat 16 (op * 0x1000) := by
  apply BitVec.eq_of_toNat_eq
  rw [mask_family, wordXYN_toNat h, BitVec.toNat_ofNat]
  omega

theorem cls : Statement .cls := rfl
theorem ret : Statement .ret := rfl
theorem jp (nnn : Word) : Statement (.jp nnn) := nnn_row (op := 0x1) (by decide) nnn
theorem call (nnn : Word) : Statement (.call nnn) := nnn_row (op := 0x2) (by decide) nnn
theorem seImm (x : Reg) (nn : Byte) : Statement (.seImm x nn) := xnn_row (op := 0x3) (by decide) x nn
theorem sneImm (x : Reg) (nn : Byte) : Statement (.sneImm x nn) := xnn_row (op := 0x4) (by decide) x nn
theorem seReg (x y : Reg) : Statement (.seReg x y) := xy_row (op := 0x5) (by decide) (by decide) x y
theorem ldImm (x : Reg) (nn : Byte) : Statement (.ldImm x nn) := xnn_row (op := 0x6) (by decide) x nn
theorem addImm (x : Reg) (nn : Byte) : Statement (.addImm x nn) := xnn_row (op := 0x7) (by decide) x nn
theorem ldReg (x y : Reg) : Statement (.ldReg x y) := xy_row (op := 0x8) (by decide) (by decide) x y
theorem or (x y : Reg) : Statement (.or x y) := xy_row (op := 0x8) (by decide) (by decide) x y
theorem and (x y : Reg) : Statement (.and x y) := xy_row (op := 0x8) (by decide) (by decide) x y
theorem xor (x y : Reg) : Statement (.xor x y) := xy_row (op := 0x8) (by decide) (by decide) x y
theorem addReg (x y : Reg) : Statement (.addReg x y) := xy_row (op := 0x8) (by decide) (by decide) x y
theorem sub (x y : Reg) : Statement (.sub x y) := xy_row (op := 0x8) (by decide) (by decide) x y
theorem shr (x y : Reg) : Statement (.shr x y) := xy_row (op := 0x8) (by decide) (by decide) x y
theorem subn (x y : Reg) : Statement (.subn x y) := xy_row (op := 0x8) (by decide) (by decide) x y
theorem shl (x y : Reg) : Statement (.shl x y) := xy_row (op := 0x8) (by decide) (by decide) x y
theorem sneReg (x y : Reg) : Statement (.sneReg x y) := xy_row (op := 0x9) (by decide) (by decide) x y
theorem ldI (nnn : Word) : Statement (.ldI nnn) := nnn_row (op := 0xA) (by decide) nnn
theorem jpV0 (nnn : Word) : Statement (.jpV0 nnn) := nnn_row (op := 0xB) (by decide) nnn
theorem rnd (x : Reg) (nn : Byte) : Statement (.rnd x nn) := xnn_row (op := 0xC) (by decide) x nn
theorem drw (x y : Reg) (n : Nat) : Statement (.drw x y n) := xyn_row (op := 0xD) (by decide) x y n
theorem skp (x : Reg) : Statement (.skp x) := x_row (op := 0xE) (by decide) x _
theorem sknp (x : Reg) : Statement (.sknp x) := x_row (op := 0xE) (by decide) x _
theorem ldVxDt (x : Reg) : Statement (.ldVxDt x) := x_row (op := 0xF) (by decide) x _
theorem ldVxK (x : Reg) : Statement (.ldVxK x) := x_row (op := 0xF) (by decide) x _
theorem ldDtVx (x : Reg) : Statement (.ldDtVx x) := x_row (op := 0xF) (by decide) x _
theorem ldStVx (x : Reg) : Statement (.ldStVx x) := x_row (op := 0xF) (by decide) x _
theorem addIVx (x : Reg) : Statement (.addIVx x) := x_row (op := 0xF) (by decide) x _
theorem ldFVx (x : Reg) : Statement (.ldFVx x) := x_row (op := 0xF) (by decide) x _
theorem ldBVx (x : Reg) : Statement (.ldBVx x) := x_row (op := 0xF) (by decide) x _
theorem ldMemVx (x : Reg) : Statement (.ldMemVx x) := x_row (op := 0xF) (by decide) x _
theorem ldVxMem (x : Reg) : Statement (.ldVxMem x) := x_row (op := 0xF) (by decide) x _

end Sys2Proof.Laws.EncodeFitsRow
end

