-- ==== Sys2Proof/Tests/Slice0.lean ====
section
/-! SUPPORT. The model's own tests: ill-formed terms, every constructor's decoding, single steps with expected
results from 95_test_vectors.md, and a witness for the hypotheses of every statement that has some. -/

namespace Sys2Proof.Tests

open Sys2Proof.Machine

/-! ## Well-formedness: one ill-formed term for each check -/

theorem test_wf_refuses_jp_above_12_bits : (Instr.jp 0x1000).wf = false := by decide
theorem test_wf_refuses_call_above_12_bits : (Instr.call 0x1000).wf = false := by decide
theorem test_wf_refuses_ldI_above_12_bits : (Instr.ldI 0xFFFF).wf = false := by decide
theorem test_wf_refuses_jpV0_above_12_bits : (Instr.jpV0 0x1000).wf = false := by decide
theorem test_wf_refuses_sixteen_rows : (Instr.drw 0 0 16).wf = false := by decide
theorem test_wf_accepts_limits : ((Instr.jp 0xFFF).wf && (Instr.drw 15 15 15).wf) = true := by decide

/-! ## Decoding: a word of every row, its bits written out from the encoding column of opcode_table.json -/

theorem test_decode_cls : decodeTableWord 16 0b0000000011100000 = some .cls := by decide
theorem test_decode_ret : decodeTableWord 16 0b0000000011101110 = some .ret := by decide
theorem test_decode_jp : decodeTableWord 16 0b0001001000110100 = some (.jp 0x234) := by decide
theorem test_decode_call : decodeTableWord 16 0b0010001100000000 = some (.call 0x300) := by decide
theorem test_decode_seImm : decodeTableWord 16 0b0011001100010010 = some (.seImm 3 0x12) := by decide
theorem test_decode_sneImm : decodeTableWord 16 0b0100001100010011 = some (.sneImm 3 0x13) := by decide
theorem test_decode_seReg : decodeTableWord 16 0b0101000100100000 = some (.seReg 1 2) := by decide
theorem test_decode_ldImm : decodeTableWord 16 0b0110101001000010 = some (.ldImm 10 0x42) := by decide
theorem test_decode_addImm : decodeTableWord 16 0b0111000000000001 = some (.addImm 0 1) := by decide
theorem test_decode_ldReg : decodeTableWord 16 0b1000000100100000 = some (.ldReg 1 2) := by decide
theorem test_decode_or : decodeTableWord 16 0b1000000100100001 = some (.or 1 2) := by decide
theorem test_decode_and : decodeTableWord 16 0b1000000100100010 = some (.and 1 2) := by decide
theorem test_decode_xor : decodeTableWord 16 0b1000000100100011 = some (.xor 1 2) := by decide
theorem test_decode_addReg : decodeTableWord 16 0b1000000000010100 = some (.addReg 0 1) := by decide
theorem test_decode_sub : decodeTableWord 16 0b1000000000010101 = some (.sub 0 1) := by decide
theorem test_decode_shr : decodeTableWord 16 0b1000000000010110 = some (.shr 0 1) := by decide
theorem test_decode_subn : decodeTableWord 16 0b1000000000010111 = some (.subn 0 1) := by decide
theorem test_decode_shl : decodeTableWord 16 0b1000000011111110 = some (.shl 0 15) := by decide
theorem test_decode_sneReg : decodeTableWord 16 0b1001000100100000 = some (.sneReg 1 2) := by decide
theorem test_decode_ldI : decodeTableWord 16 0b1010001100000000 = some (.ldI 0x300) := by decide
theorem test_decode_jpV0 : decodeTableWord 16 0b1011111111111111 = some (.jpV0 0xFFF) := by decide
theorem test_decode_rnd : decodeTableWord 16 0b1100001100001111 = some (.rnd 3 0x0F) := by decide
theorem test_decode_drw : decodeTableWord 16 0b1101000100100101 = some (.drw 1 2 5) := by decide
theorem test_decode_skp : decodeTableWord 16 0b1110000110011110 = some (.skp 1) := by decide
theorem test_decode_sknp : decodeTableWord 16 0b1110000110100001 = some (.sknp 1) := by decide
theorem test_decode_ldVxDt : decodeTableWord 16 0b1111001000000111 = some (.ldVxDt 2) := by decide
theorem test_decode_ldVxK : decodeTableWord 16 0b1111000100001010 = some (.ldVxK 1) := by decide
theorem test_decode_ldDtVx : decodeTableWord 16 0b1111000000010101 = some (.ldDtVx 0) := by decide
theorem test_decode_ldStVx : decodeTableWord 16 0b1111000000011000 = some (.ldStVx 0) := by decide
theorem test_decode_addIVx : decodeTableWord 16 0b1111111100011110 = some (.addIVx 15) := by decide
theorem test_decode_ldFVx : decodeTableWord 16 0b1111000000101001 = some (.ldFVx 0) := by decide
theorem test_decode_ldBVx : decodeTableWord 16 0b1111000000110011 = some (.ldBVx 0) := by decide
theorem test_decode_ldMemVx : decodeTableWord 16 0b1111000101010101 = some (.ldMemVx 1) := by decide
theorem test_decode_ldVxMem : decodeTableWord 16 0b1111001001100101 = some (.ldVxMem 2) := by decide

/-- The near misses of 95_test_vectors.md 2.7 are unknown. -/
theorem test_decode_unknown_words :
    ([0x0000, 0x0123, 0x00FF, 0x00E1, 0x01E0, 0x5121, 0x8008, 0x800F, 0x9121, 0xE000, 0xE09F, 0xF000, 0xF0FF,
      0xFFFF].all fun w => (decodeTableWord 16 w).isNone) = true := by decide

theorem test_decode_needs_two_bytes : decodeBytes [0x60] = .error .truncated := by decide

/-! ## Helpers -/

/-- The outcome is a next state that passes a check. -/
def nextWith (o : Result) (p : State → Bool) : Bool :=
  match o with
  | .next t => p t
  | .fault _ => false
  | .refused _ => false

/-- The outcome of a host operation passes a check. -/
def doneWith (o : Host.Outcome (State × HostResult) Fault Refusal) (p : State → HostResult → Bool) : Bool :=
  match o with
  | .next (t, r) => p t r
  | .fault _ => false
  | .refused _ => false

/-- The reset state with the word placed at 0x200 and some registers set. -/
def at200 (w : Nat) (regs : List (Reg × Byte)) : State :=
  regs.foldl (fun s p => s.setReg p.1 p.2) (State.reset.withFetchWord 16 w)

/-- The reset state with two bytes at an address and `PC` there. -/
def at_ (a : Word) (hi lo : Byte) : State := ((State.reset.setPc a).setByte a.toNat hi).setByte (a.toNat + 1) lo

/-- The record of a halted state. -/
def record (s : State) : Option FaultRecord :=
  match s.status with
  | .running => none
  | .halted f => some f

/-- `SHIFT_SOURCE = VY`. -/
def withVy (s : State) : State := { s with cfg := { s.cfg with shiftSource := .vy } }

/-! ## Single steps (95_test_vectors.md 1 and 2) -/

theorem test_step_cls_dark_and_dirty :
    nextWith (step (((at200 0x00E0 [(15, 9)]).setFb (Framebuffer.dark.flip 3 5)).setDirty false))
      (fun t => !t.pixel 3 5 && t.dirty && t.reg 15 == 9) = true := by decide

theorem test_step_ret_underflow :
    nextWith (step (at200 0x00EE []))
      (fun t => record t == some ⟨.stackUnderflow, 0x200, some 0x00EE, 0⟩ && t.pc == 0x200) = true := by decide

theorem test_step_ret_keeps_entry :
    nextWith (step ((at200 0x00EE []).push 0x602 (by decide)))
      (fun t => t.pc == 0x602 && t.sp == 0 && t.stackAt 0 == 0x602) = true := by decide

theorem test_step_jp :
    nextWith (step (at200 0x1234 []))
      (fun t => t.pc == 0x234) = true := by decide

theorem test_step_call :
    nextWith (step (at200 0x2300 []))
      (fun t => t.pc == 0x300 && t.sp == 1 && t.stackAt 0 == 0x202) = true := by decide

theorem test_step_call_overflow :
    nextWith (step ({ at200 0x2300 [] with sp := 16 }))
      (fun t => record t == some ⟨.stackOverflow, 0x200, some 0x2300, 16⟩ && t.pc == 0x200 && t.sp == 16) = true := by decide

theorem test_step_seImm_vf :
    nextWith (step (at200 0x3F01 [(15, 1)]))
      (fun t => t.pc == 0x204) = true := by decide

theorem test_step_seImm_not :
    nextWith (step (at200 0x3313 [(3, 0x12)]))
      (fun t => t.pc == 0x202) = true := by decide

theorem test_step_sneImm :
    nextWith (step (at200 0x4313 [(3, 0x12)]))
      (fun t => t.pc == 0x204) = true := by decide

theorem test_step_seReg_same :
    nextWith (step (at200 0x5110 []))
      (fun t => t.pc == 0x204) = true := by decide

theorem test_step_seReg_not :
    nextWith (step (at200 0x5120 [(1, 7)]))
      (fun t => t.pc == 0x202) = true := by decide

theorem test_step_sneReg_same :
    nextWith (step (at200 0x9110 []))
      (fun t => t.pc == 0x202) = true := by decide

theorem test_step_sneReg :
    nextWith (step (at200 0x9120 [(1, 7), (2, 8)]))
      (fun t => t.pc == 0x204) = true := by decide

theorem test_step_ldImm :
    nextWith (step (at200 0x6A42 []))
      (fun t => t.reg 10 == 0x42 && t.pc == 0x202) = true := by decide

theorem test_step_addImm_wraps_without_flag :
    nextWith (step (at200 0x7001 [(0, 0xFF), (15, 5)]))
      (fun t => t.reg 0 == 0 && t.reg 15 == 5) = true := by decide

theorem test_step_addImm_vf :
    nextWith (step (at200 0x7FFF []))
      (fun t => t.reg 15 == 0xFF) = true := by decide

theorem test_step_ldReg :
    nextWith (step (at200 0x8010 [(1, 0x33)]))
      (fun t => t.reg 0 == 0x33 && t.reg 1 == 0x33) = true := by decide

theorem test_step_or_keeps_vf :
    nextWith (step (at200 0x8011 [(0, 0xF0), (1, 0x0F), (15, 1)]))
      (fun t => t.reg 0 == 0xFF && t.reg 15 == 1) = true := by decide

theorem test_step_and :
    nextWith (step (at200 0x8012 [(0, 0xF0), (1, 0x3C)]))
      (fun t => t.reg 0 == 0x30) = true := by decide

theorem test_step_xor :
    nextWith (step (at200 0x8013 [(0, 0xF0), (1, 0x3C)]))
      (fun t => t.reg 0 == 0xCC) = true := by decide

theorem test_step_addReg_carry :
    nextWith (step (at200 0x8014 [(0, 0xFF), (1, 0x01)]))
      (fun t => t.reg 0 == 0 && t.reg 15 == 1) = true := by decide

theorem test_step_addReg_vf_twice :
    nextWith (step (at200 0x8FF4 [(15, 0x80)]))
      (fun t => t.reg 15 == 1) = true := by decide

theorem test_step_sub_borrow :
    nextWith (step (at200 0x8015 [(0, 1), (1, 2)]))
      (fun t => t.reg 0 == 0xFF && t.reg 15 == 0) = true := by decide

theorem test_step_sub_equal :
    nextWith (step (at200 0x8015 [(0, 7), (1, 7), (15, 9)]))
      (fun t => t.reg 0 == 0 && t.reg 15 == 0) = true := by decide

theorem test_step_subn :
    nextWith (step (at200 0x8017 [(0, 1), (1, 3)]))
      (fun t => t.reg 0 == 2 && t.reg 15 == 1) = true := by decide

theorem test_step_subn_equal :
    nextWith (step (at200 0x8017 [(0, 7), (1, 7), (15, 9)]))
      (fun t => t.reg 0 == 0 && t.reg 15 == 0) = true := by decide

theorem test_step_shr :
    nextWith (step (at200 0x8016 [(0, 5)]))
      (fun t => t.reg 0 == 2 && t.reg 15 == 1) = true := by decide

theorem test_step_shr_from_vy :
    nextWith (step (withVy (at200 0x8016 [(0, 5), (1, 0x80)])))
      (fun t => t.reg 0 == 0x40 && t.reg 15 == 0 && t.reg 1 == 0x80) = true := by decide

theorem test_step_shl :
    nextWith (step (at200 0x80FE [(0, 0x80)]))
      (fun t => t.reg 0 == 0 && t.reg 15 == 1) = true := by decide

theorem test_step_shl_from_vy :
    nextWith (step (withVy (at200 0x801E [(0, 0x81), (1, 1)])))
      (fun t => t.reg 0 == 2 && t.reg 15 == 0) = true := by decide

theorem test_step_jpV0 :
    nextWith (step (at200 0xBFFF [(0, 0xFF)]))
      (fun t => t.pc == 0x10FE) = true := by decide

theorem test_step_rnd_masks_its_draw :
    nextWith (step ((at200 0xC30F []).setRndIn (some 0xA7)))
      (fun t => t.reg 3 == 0x07) = true := by decide

theorem test_step_ldI :
    nextWith (step (at200 0xA300 []))
      (fun t => t.i == 0x300) = true := by decide

theorem test_step_addIVx_last_address :
    nextWith (step ((at200 0xF01E [(0, 1), (15, 1)]).setI 0xFFE))
      (fun t => t.i == 0xFFF && t.reg 15 == 0) = true := by decide

theorem test_step_addIVx_wraps :
    nextWith (step ((at200 0xF01E [(0, 1)]).setI 0xFFFF))
      (fun t => t.i == 0 && t.reg 15 == 1) = true := by decide

theorem test_step_ldFVx :
    nextWith (step (at200 0xF029 [(0, 0xFF)]))
      (fun t => t.i == 0x4FB) = true := by decide

theorem test_step_ldBVx :
    nextWith (step ((at200 0xF033 [(0, 156)]).setI 0x300))
      (fun t => t.byteAt 0x300 == 1 && t.byteAt 0x301 == 5 && t.byteAt 0x302 == 6 && t.i == 0x300) = true := by decide

theorem test_step_ldBVx_fault :
    nextWith (step ((at200 0xF033 [(0, 1)]).setI 0xFFE))
      (fun t => record t == some ⟨.memoryFault, 0x200, some 0xF033, 0x1000⟩ && t.byteAt 0xFFE == 0) = true := by decide

theorem test_step_ldMemVx :
    nextWith (step ((at200 0xF155 [(0, 1), (1, 2), (2, 3)]).setI 0x300))
      (fun t => t.byteAt 0x300 == 1 && t.byteAt 0x301 == 2 && t.byteAt 0x302 == 0 && t.i == 0x302) = true := by decide

theorem test_step_ldMemVx_fault :
    nextWith (step ((at200 0xF155 [(0, 1), (1, 2)]).setI 0xFFF))
      (fun t => record t == some ⟨.memoryFault, 0x200, some 0xF155, 0x1000⟩ && t.byteAt 0xFFF == 0 && t.i == 0xFFF) = true := by decide

theorem test_step_ldVxMem_font :
    nextWith (step (at200 0xFF65 []))
      (fun t => t.reg 0 == 0xF0 && t.reg 5 == 0x20 && t.reg 15 == 0xF0 && t.i == 0x10) = true := by decide

theorem test_step_ldVxMem_fault :
    nextWith (step ((at200 0xF065 []).setI 0x1000))
      (fun t => record t == some ⟨.memoryFault, 0x200, some 0xF065, 0x1000⟩) = true := by decide

theorem test_step_drw_wraps_columns :
    nextWith (step (((at200 0xD121 [(1, 60)]).setI 0x300).setByte 0x300 0xFF))
      (fun t => t.pixel 0 60 && t.pixel 0 63 && t.pixel 0 0 && t.pixel 0 3 && !t.pixel 0 4 && !t.pixel 0 59 && t.reg 15 == 0) = true := by decide

theorem test_step_drw_collides :
    nextWith (step ((((at200 0xD121 []).setI 0x300).setByte 0x300 0x80).setFb ((Framebuffer.dark.flip 0 0).flip 0 1)))
      (fun t => !t.pixel 0 0 && t.pixel 0 1 && t.reg 15 == 1) = true := by decide

theorem test_step_skp :
    nextWith (step ((at200 0xE19E [(1, 7)]).setKeys ((Vector.replicate 16 false).set 7 true)))
      (fun t => t.pc == 0x204) = true := by decide

theorem test_step_skp_bad_index :
    nextWith (step (at200 0xE19E [(1, 0x10)]))
      (fun t => record t == some ⟨.invalidKeyIndex, 0x200, some 0xE19E, 16⟩) = true := by decide

theorem test_step_sknp :
    nextWith (step (at200 0xE1A1 [(1, 7)]))
      (fun t => t.pc == 0x204) = true := by decide

theorem test_step_sknp_bad_index :
    nextWith (step (at200 0xE1A1 [(1, 0xFF)]))
      (fun t => record t == some ⟨.invalidKeyIndex, 0x200, some 0xE1A1, 255⟩) = true := by decide

theorem test_step_ldVxDt :
    nextWith (step ((at200 0xF007 []).setDt 0x3C))
      (fun t => t.reg 0 == 0x3C && t.dt == 0x3C) = true := by decide

theorem test_step_ldVxK_waits :
    nextWith (step (at200 0xF30A [(3, 9)]))
      (fun t => t == at200 0xF30A [(3, 9)]) = true := by decide

theorem test_step_ldVxK_lowest :
    nextWith (step ((at200 0xF30A []).setKeys (((Vector.replicate 16 false).set 12 true).set 9 true)))
      (fun t => t.reg 3 == 9 && t.pc == 0x202) = true := by decide

theorem test_step_ldDtVx :
    nextWith (step (at200 0xF015 [(0, 60)]))
      (fun t => t.dt == 60 && t.st == 0) = true := by decide

theorem test_step_ldStVx :
    nextWith (step ((at200 0xF018 []).setSt 5))
      (fun t => t.st == 0 && t.dt == 0) = true := by decide

theorem test_step_unknown :
    nextWith (step (at200 0x5121 [(15, 1)]))
      (fun t => t == { at200 0x5121 [(15, 1)] with pc := 0x202 }) = true := by decide

theorem test_step_odd_pc :
    nextWith (step (at_ 0x201 0x60 0x07))
      (fun t => t.reg 0 == 7 && t.pc == 0x203) = true := by decide

theorem test_step_fetch_fault_at_last_byte :
    nextWith (step (State.reset.setPc 0xFFF))
      (fun t => record t == some ⟨.memoryFault, 0xFFF, none, 0x1000⟩) = true := by decide

/-! ## Host operations (95_test_vectors.md 2.8) -/

theorem test_host_load_program :
    doneWith (perform (.loadProgram [0x12, 0x34]) (State.reset))
      (fun t r => r == .ok && t.byteAt 0x200 == 0x12 && t.byteAt 0x201 == 0x34 && t.byteAt 0x202 == 0) = true := by decide

theorem test_host_tick_cue :
    doneWith (perform (.tick) ((State.reset.setDt 5).setSt 1))
      (fun t r => r == .cue true && t.dt == 4 && t.st == 0) = true := by decide

theorem test_host_tick_no_cue :
    doneWith (perform (.tick) (State.reset.setSt 2))
      (fun t r => r == .cue false && t.dt == 0 && t.st == 1) = true := by decide

theorem test_host_set_key_bad :
    doneWith (perform (.setKey 16 true) (State.reset))
      (fun t r => r == .invalidKeyIndex 16 && t == State.reset) = true := by decide

theorem test_host_set_key :
    doneWith (perform (.setKey 7 true) (State.reset))
      (fun t r => r == .ok && t.key 7 && !t.key 6) = true := by decide

theorem test_host_cycle_unknown :
    doneWith (perform (.cycle 0) (at200 0x5121 []))
      (fun t r => r == .cycle (.unknown 0x5121 0x200) && t.pc == 0x202) = true := by decide

theorem test_host_cycle_waiting :
    doneWith (perform (.cycle 0) (at200 0xF10A []))
      (fun t r => r == .cycle .waiting && t.pc == 0x200) = true := by decide

theorem test_host_cycle_halted :
    doneWith (perform (.cycle 0) (State.reset.setStatus (.halted ⟨.stackUnderflow, 0x208, some 0x00EE, 0⟩)))
      (fun t r => r == .cycle (.halted ⟨.stackUnderflow, 0x208, some 0x00EE, 0⟩) && t.pc == 0x200) = true := by decide

theorem test_host_reset_leaves_halted :
    doneWith (perform (.reset) ((State.reset.setDt 9).setStatus (.halted ⟨.stackUnderflow, 0x208, none, 0⟩)))
      (fun t r => r == .none && t == State.reset) = true := by decide

/-! ## Witnesses: concrete states and operands that meet the hypotheses of the statements -/

/-- A passed check gives the next state it was passed on. -/
theorem next_of_nextWith {o : Result} {p : State → Bool} (h : nextWith o p = true) :
    ∃ t, o = .next t ∧ p t = true := by
  cases o with
  | next t => exact ⟨t, rfl, h⟩
  | fault r => exact absurd h (by simp [nextWith])
  | refused r => exact absurd h (by simp [nextWith])

/-- A passed check gives the state and result it was passed on. -/
theorem done_of_doneWith {o : Host.Outcome (State × HostResult) Fault Refusal} {p : State → HostResult → Bool}
    (h : doneWith o p = true) : ∃ t r, o = .next (t, r) ∧ p t r = true := by
  cases o with
  | next e => exact ⟨e.1, e.2, rfl, h⟩
  | fault r => exact absurd h (by simp [doneWith])
  | refused r => exact absurd h (by simp [doneWith])

/-- A stack with `n` occupied entries. -/
def withSp (n : Fin 17) : State := { State.reset with sp := n }

theorem witness_StepRunsTheDecodedInstruction :
    let s := at_ 0xFFE 0x6A 0x42
    s.status = .running ∧ s.pc.toNat + 1 < 4096 ∧
      decodeBytes [s.byteAt s.pc.toNat, s.byteAt (s.pc.toNat + 1)] = .ok (.ldImm 10 0x42, []) := by decide

theorem witness_DecodeUndoesEncode : (Instr.drw 15 15 15).wf = true ∧ (Instr.jp 0xFFF).wf = true := by decide

theorem witness_EncodeUndoesDecode : decodeWord 0xDFFF = .ok (.drw 15 15 15) := by decide

theorem witness_FieldsAreShiftedAndDetermineTheWord :
    (opField 0xD125, xField 0xD125, yField 0xD125, nField 0xD125) = (0xD#4, 0x1#4, 0x2#4, 0x5#4) := by decide

theorem witness_OpcodeMapDecidesWhatDecodes :
    (∃ r ∈ opcodeMap, r.holds 0x00E0) ∧ (∀ r ∈ opcodeMap, ¬ r.holds 0x01E0) := by decide

theorem witness_UnknownWordOnlyAdvancesPc :
    let s := at_ 0xFFE 0x51 0x21
    s.status = .running ∧ s.pc.toNat + 1 < 4096 ∧ ∀ r ∈ opcodeMap, ¬ r.holds (fetchedWord s) := by decide

theorem witness_FetchOutOfRangeFaults :
    (let s := State.reset.setPc 0xFFF; s.status = .running ∧ 4096 ≤ s.pc.toNat + 1) ∧
    (let s := State.reset.setPc 0x1000; s.status = .running ∧ 4096 ≤ s.pc.toNat + 1) := by decide

theorem witness_HaltedCycleChangesNothing :
    (State.reset.setStatus (.halted ⟨.stackUnderflow, 0x200, some 0x00EE, 0⟩)).status =
      .halted ⟨.stackUnderflow, 0x200, some 0x00EE, 0⟩ := rfl

/-- Each of the five results is returned by some cycle, the fault with and without a word. -/
theorem witness_CycleResultSaysWhatChanged :
    (∃ t, step (at200 0x6A42 []) = .next t ∧ cycleResult (at200 0x6A42 []) = .next .executed) ∧
    (∃ t, step (at200 0xF10A []) = .next t ∧ cycleResult (at200 0xF10A []) = .next .waiting) ∧
    (∃ t, step (at200 0x5121 []) = .next t ∧ cycleResult (at200 0x5121 []) = .next (.unknown 0x5121 0x200)) ∧
    (∃ t, step (at200 0x00EE []) = .next t ∧
      cycleResult (at200 0x00EE []) = .next (.fault ⟨.stackUnderflow, 0x200, some 0x00EE, 0⟩)) ∧
    (∃ t, step (State.reset.setPc 0xFFF) = .next t ∧
      cycleResult (State.reset.setPc 0xFFF) = .next (.fault ⟨.memoryFault, 0xFFF, none, 4096⟩)) ∧
    (∃ t, step (State.reset.setStatus (.halted ⟨.stackUnderflow, 0x200, none, 0⟩)) = .next t ∧
      cycleResult (State.reset.setStatus (.halted ⟨.stackUnderflow, 0x200, none, 0⟩)) =
        .next (.halted ⟨.stackUnderflow, 0x200, none, 0⟩)) :=
  ⟨⟨_, rfl, rfl⟩, ⟨_, rfl, rfl⟩, ⟨_, rfl, rfl⟩, ⟨_, rfl, rfl⟩, ⟨_, rfl, rfl⟩, ⟨_, rfl, rfl⟩⟩

theorem witness_RegisterFaultIsNeverRaised :
    (at200 0x00EE []).status = .running ∧
    ∃ t, step (at200 0x00EE []) = .next t ∧ t.status = .halted ⟨.stackUnderflow, 0x200, some 0x00EE, 0⟩ :=
  ⟨rfl, _, rfl, rfl⟩

theorem witness_JumpGoesToItsAddress :
    State.reset.status = .running ∧ 4095 ≤ (0xFFF#12).toNat := by decide

theorem witness_OffsetJumpAddsV0 :
    ∃ t, exec (.jpV0 ((0xFFF#12).setWidth 16)) (State.reset.setReg 0 0xFF) = .next t ∧
      (State.reset.setReg 0 0xFF).status = .running ∧ 0xFFF ≤ t.pc.toNat :=
  ⟨_, rfl, rfl, by decide⟩

theorem witness_CallPushesThenJumpsOrOverflows :
    (withSp 0).sp.val < 16 ∧ (withSp 15).sp.val < 16 ∧ (withSp 16).sp.val = 16 := by decide

theorem witness_ReturnPopsOrUnderflows :
    (withSp 1).sp.val = (0 : Fin 16).val + 1 ∧ (withSp 16).sp.val = (15 : Fin 16).val + 1 ∧
      (withSp 0).sp.val = 0 := by decide

theorem witness_SkipsPassOverOneWord : (1#4 ≠ 0#4) ∧ (15#4 ≠ 0#4) := by decide

theorem witness_LogicActsBitByBitWithoutFlag : (15#4 = 15#4) := rfl

theorem witness_RandomByteIsMasked : (State.reset.setRndIn (some 0xA7)).rndIn = some 0xA7 := rfl

theorem witness_CycleGivesItsDrawToRandom :
    let s := at200 0xC30F []
    s.status = .running ∧ s.pc.toNat + 1 < 4096 ∧ fetchedWord s = nibblesByte 0xC#4 3#4 0x0F#8 := by decide

theorem witness_BcdStoresThreeDigitsOrFaults :
    (State.reset.setI 0xFFD).i.toNat + 2 < 4096 ∧ 4096 ≤ (State.reset.setI 0xFFE).i.toNat + 2 := by decide

theorem witness_StoreAndLoadRegisters :
    (State.reset.setI 0xFF0).i.toNat + (15#4).toNat < 4096 ∧
      4096 ≤ (State.reset.setI 0xFF1).i.toNat + (15#4).toNat := by decide

theorem witness_StoredRegistersLoadBack :
    let s := (State.reset.setI 0xFF0).setReg 3 7
    s.i.toNat + (15 : Reg).val < 4096 ∧
    ∃ t u, exec (.ldMemVx 15) s = .next t ∧ u = (t.setRegs (Vector.replicate 16 0)).setI s.i := by
  refine ⟨by decide, ?_⟩
  obtain ⟨t, h, -⟩ := next_of_nextWith
    (o := exec (.ldMemVx 15) ((State.reset.setI 0xFF0).setReg 3 7)) (p := fun _ => true) (by decide)
  exact ⟨t, _, h, rfl⟩

/-- The last word `Fx55` can store, at the top of memory. -/
theorem witness_StoredWordIsTheNextFetched :
    let s := (State.reset.setI 0xFF0).setReg 14 7
    (14 : Reg).val + 1 = (15 : Reg).val ∧ (15 : Reg) ≤ 15 ∧ s.i.toNat + (15 : Reg).val < 4096 ∧
    ∃ t, exec (.ldMemVx 15) s = .next t := by
  refine ⟨rfl, le_refl _, by decide, ?_⟩
  obtain ⟨t, h, -⟩ := next_of_nextWith
    (o := exec (.ldMemVx 15) ((State.reset.setI 0xFF0).setReg 14 7)) (p := fun _ => true) (by decide)
  exact ⟨t, h⟩

/-- The three cases of the range, at their boundaries. -/
theorem witness_DrawRange :
    ((0#4 = 0#4) ∨ (State.reset.setI 0xFFFF).i.toNat + (0#4).toNat ≤ 4096) ∧
    (State.reset.setI 0xFF1).i.toNat + (15#4).toNat ≤ 4096 ∧
    (15#4 ≠ 0#4 ∧ 4096 < (State.reset.setI 0xFF2).i.toNat + (15#4).toNat) := by decide

/-- A set sprite bit on a lit pixel, and a sprite none of whose bits is set. -/
theorem witness_DrawCollision :
    (∃ r c, SpriteCovers State.reset 0 0 1 r c ∧
      (State.reset.setFb (Framebuffer.dark.flip 0 0)).pixel r c = true) ∧
    (∀ r c, SpriteCovers (State.reset.setI 0x300) 0 0 1 r c → State.reset.pixel r c = false) := by
  refine ⟨⟨0, 0, ⟨0, 0, by decide, by decide, by decide, by decide, by decide⟩, by decide⟩, ?_⟩
  rintro r c ⟨b, k, hb, hk, h, -, -⟩
  obtain rfl : b = 0 := by omega
  exact absurd h (by interval_cases k <;> decide)

theorem witness_DrawTwiceRestoresTheScreen :
    let s := State.reset
    (5 < 16) ∧ (5 = 0 ∨ s.i.toNat + 5 ≤ 4096) ∧
    ∃ t, exec (.drw 1 2 5) s = .next t ∧ t.reg 1 = s.reg 1 ∧ t.reg 2 = s.reg 2 := by
  refine ⟨by decide, by decide, ?_⟩
  obtain ⟨t, h, hp⟩ := next_of_nextWith (o := exec (.drw 1 2 5) State.reset)
    (p := fun t => decide (t.reg 1 = State.reset.reg 1 ∧ t.reg 2 = State.reset.reg 2)) (by decide)
  exact ⟨t, h, of_decide_eq_true hp⟩

theorem witness_KeySkipsTestTheNamedKey :
    ((State.reset.setReg 1 15).reg (regOf 1#4)).toNat = (15 : Fin 16).val ∧
      15 < ((State.reset.setReg 1 16).reg (regOf 1#4)).toNat := by decide

theorem witness_KeyWaitTakesTheLowestKeyDown :
    (∀ k, State.reset.key k = false) ∧
    (let s := State.reset.setKeys ((Vector.replicate 16 false).set 15 true)
     s.key 15 = true ∧ ∀ j, j < 15 → s.key j = false) := by decide

theorem witness_ParkedCoreReturnsWaiting :
    (let s := at200 0xF10A []
     s.status = .running ∧ s.pc.toNat + 1 < 4096 ∧ fetchedWord s = nibblesByte 0xF#4 1#4 0x0A#8 ∧
       ∀ k, s.key k = false) ∧
    (let s := (at200 0xF10A []).setKeys (Vector.replicate 16 true)
     s.status = .running ∧ s.pc.toNat + 1 < 4096 ∧ fetchedWord s = nibblesByte 0xF#4 1#4 0x0A#8 ∧
       ∃ k, s.key k = true) := by decide

theorem witness_SetKeyChangesOneKeyOrReportsTheIndex : (15 < 16) ∧ (16 ≤ 16) := by decide

theorem witness_LoadProgramCopiesOrRejects :
    (List.replicate 0xE00 (0#8)).length ≤ 0xE00 ∧ 0xE00 < (List.replicate 0xE01 (0#8)).length := by
  simp only [List.length_replicate]; decide

theorem witness_LoadedProgramStartsAtItsFirstWord :
    ∃ t u, ([] : List Byte).length ≤ 0xDFE ∧ decodeWord (wordOfBytes 0x6A 0x42) = .ok (.ldImm 10 0x42) ∧
      perform .reset (State.reset.setDt 3) = .next (t, .none) ∧
      perform (.loadProgram [0x6A, 0x42]) t = .next (u, .ok) :=
  ⟨_, _, by decide, by decide, rfl, rfl⟩

theorem witness_FetchWordIsTheNextInstruction :
    0xDFFF < 0x10000 ∧ decodeTableWord 16 0xDFFF = some (.drw 15 15 15) := by decide

theorem witness_EveryInstructionWritesOnlyItsParts :
    ∃ t, exec .cls State.reset = .next t := ⟨_, rfl⟩

theorem witness_CyclesNeverMoveTimersKeysOrParameters :
    (∃ t, step (at200 0xF015 [(0, 9)]) = .next t ∧ t.dt ≠ (at200 0xF015 [(0, 9)]).dt ∧
      (at200 0xF015 [(0, 9)]).dirty = true) ∧
    (∃ t, step (at200 0xF018 [(0, 9)]) = .next t ∧ t.st ≠ (at200 0xF018 [(0, 9)]).st) :=
  ⟨⟨_, rfl, by decide, rfl⟩, ⟨_, rfl, by decide⟩⟩

theorem witness_NoStepReadsSoundTimerOrDirty : ∃ t, step (at200 0xF018 [(0, 9)]) = .next t := ⟨_, rfl⟩

theorem witness_OnlyResetLeavesHalted :
    let s := State.reset.setStatus (.halted ⟨.stackUnderflow, 0x200, some 0x00EE, 0⟩)
    s.status = .halted ⟨.stackUnderflow, 0x200, some 0x00EE, 0⟩ ∧ HostOp.tick ≠ .reset ∧
      ∃ t r, perform .tick s = .next (t, r) := ⟨rfl, by decide, _, _, rfl⟩

theorem witness_DirtyIsClearedOnlyByAck :
    State.reset.dirty = true ∧ HostOp.tick ≠ .ackDisplay ∧ ∃ t r, perform .tick State.reset = .next (t, r) :=
  ⟨rfl, by decide, _, _, rfl⟩

/-- A state with something in memory and on the stack that meets the invariant, and steps. -/
theorem witness_StepKeepsTheInvariant :
    Inv ((at200 0x2300 []).push 0x1000 (by decide)) ∧
      ∃ t, step ((at200 0x2300 []).push 0x1000 (by decide)) = .next t :=
  ⟨{ memory := by decide, pc := by decide, stack := by decide, status := trivial }, ⟨_, rfl⟩⟩

theorem witness_HostOperationsKeepTheInvariant :
    Inv ((at200 0x2300 []).push 0x1000 (by decide)) ∧
      ∃ t r, perform .tick ((at200 0x2300 []).push 0x1000 (by decide)) = .next (t, r) :=
  ⟨witness_StepKeepsTheInvariant.1, _, _, rfl⟩

theorem witness_ReachableStatesMeetTheInvariant :
    Reachable defaultConfig ((State.boot defaultConfig).setKeys (Vector.replicate 16 true)) :=
  .op (o := .setKeys (Vector.replicate 16 true)) (r := .ok) .boot rfl

end Sys2Proof.Tests
end

section
/-! PROOFS. The fields of a word as shifts and masks, and the word from its fields
(30_encoding.md R91, R92). -/

namespace Sys2Proof

/-! ## Each field as the rule's shift and mask (R91) -/

theorem opField_eq_shift_mask (w : Word) : (opField w).toNat = (w.toNat >>> 12) &&& 0xF :=
  (BitVec.extractLsb'_toNat 12 4 w).trans (Nat.and_two_pow_sub_one_eq_mod _ 4).symm

theorem xField_eq_shift_mask (w : Word) : (xField w).toNat = (w.toNat >>> 8) &&& 0xF :=
  (BitVec.extractLsb'_toNat 8 4 w).trans (Nat.and_two_pow_sub_one_eq_mod _ 4).symm

theorem yField_eq_shift_mask (w : Word) : (yField w).toNat = (w.toNat >>> 4) &&& 0xF :=
  (BitVec.extractLsb'_toNat 4 4 w).trans (Nat.and_two_pow_sub_one_eq_mod _ 4).symm

theorem nField_eq_mask (w : Word) : (nField w).toNat = w.toNat &&& 0xF :=
  (nField_toNat w).trans (Nat.and_two_pow_sub_one_eq_mod _ 4).symm

theorem nnField_eq_mask (w : Word) : (nnField w).toNat = w.toNat &&& 0xFF :=
  (nnField_toNat w).trans (Nat.and_two_pow_sub_one_eq_mod _ 8).symm

theorem nnnField_eq_mask (w : Word) : (nnnField w).toNat = w.toNat &&& 0xFFF :=
  (nnnField_toNat w).trans (Nat.and_two_pow_sub_one_eq_mod _ 12).symm

/-! ## The word and the wide fields from the four nibbles (R92) -/

theorem toNat_eq_nibbles (w : Word) :
    w.toNat = (opField w).toNat * 0x1000 + (xField w).toNat * 0x100 + (yField w).toNat * 0x10 +
      (nField w).toNat := by
  rw [opField_toNat, xField_toNat, yField_toNat, nField_toNat]
  omega

theorem nnField_eq_nibbles (w : Word) :
    (nnField w).toNat = (yField w).toNat * 16 + (nField w).toNat := by
  rw [nnField_toNat, yField_toNat, nField_toNat]
  omega

theorem nnnField_eq_xField_nnField (w : Word) :
    (nnnField w).toNat = (xField w).toNat * 256 + (nnField w).toNat := by
  rw [nnnField_toNat, xField_toNat, nnField_toNat]
  omega

/-- `(op, x, y, n)` determines the word (R92): both words are the same sum of nibbles. -/
theorem eq_of_nibbles_eq {w w' : Word} (hop : opField w = opField w') (hx : xField w = xField w')
    (hy : yField w = yField w') (hn : nField w = nField w') : w = w' := by
  apply BitVec.eq_of_toNat_eq
  rw [toNat_eq_nibbles w, toNat_eq_nibbles w', hop, hx, hy, hn]

/-- Settles O5: each field is its shift and mask, the word and the wide fields are sums of
nibbles, and equal nibbles make equal sums. -/
theorem fieldsAreShiftedAndDetermineTheWord :
    Obligations.FieldsAreShiftedAndDetermineTheWord := by
  intro w w'
  refine ⟨⟨opField_eq_shift_mask w, xField_eq_shift_mask w, yField_eq_shift_mask w,
    nField_eq_mask w, nnField_eq_mask w, nnnField_eq_mask w⟩,
    toNat_eq_nibbles w, nnField_eq_nibbles w, nnnField_eq_xField_nnField w, fun h => ?_⟩
  simp only [Prod.mk.injEq] at h
  obtain ⟨hop, hx, hy, hn⟩ := h
  exact eq_of_nibbles_eq hop hx hy hn

end Sys2Proof
end

section
/-! PROOFS. Loads and adds of an immediate (42_alu.md R170, R171): the fields of an `XNN` word, and what a
plain register write completes with. -/

namespace Sys2Proof.Machine

/-! ## The fields of a word written as two nibbles and a byte (R91) -/

theorem nibblesByte_toNat (op x : BitVec 4) (nn : Byte) :
    (nibblesByte op x nn).toNat = op.toNat * 0x1000 + x.toNat * 0x100 + nn.toNat := by
  unfold nibblesByte
  rw [BitVec.toNat_append, BitVec.toNat_append, ← Nat.shiftLeft_add_eq_or_of_lt nn.isLt,
    ← Nat.shiftLeft_add_eq_or_of_lt x.isLt, Nat.shiftLeft_eq, Nat.shiftLeft_eq]
  omega

@[simp] theorem opField_nibblesByte (op x : BitVec 4) (nn : Byte) :
    opField (nibblesByte op x nn) = op := by
  apply BitVec.eq_of_toNat_eq
  rw [opField_toNat, nibblesByte_toNat]
  omega

@[simp] theorem xField_nibblesByte (op x : BitVec 4) (nn : Byte) :
    xField (nibblesByte op x nn) = x := by
  apply BitVec.eq_of_toNat_eq
  rw [xField_toNat, nibblesByte_toNat]
  omega

@[simp] theorem nnField_nibblesByte (op x : BitVec 4) (nn : Byte) :
    nnField (nibblesByte op x nn) = nn := by
  apply BitVec.eq_of_toNat_eq
  rw [nnField_toNat, nibblesByte_toNat]
  omega

/-! ## Decoding families 6 and 7 (R101) -/

theorem decodeWord_nibblesByte_6 (x : BitVec 4) (nn : Byte) :
    decodeWord (nibblesByte 0x6#4 x nn) = .ok (.ldImm (regOf x) nn) := by
  simp [decodeWord]

theorem decodeWord_nibblesByte_7 (x : BitVec 4) (nn : Byte) :
    decodeWord (nibblesByte 0x7#4 x nn) = .ok (.addImm (regOf x) nn) := by
  simp [decodeWord]

/-! ## A plain register write (R11, R123) -/

/-- Writing a register and advancing touches `V` and `PC` alone. -/
theorem onlyChanged_setReg_advance (s : State) (x : Reg) (b : Byte) :
    OnlyChanged [.v, .pc] s (s.setReg x b).advance := by
  intro p hp
  cases p with
  | v | pc => simp at hp
  | draw => exact ⟨rfl, rfl⟩
  | stack | mem | keys => exact fun _ => rfl
  | fb => exact fun _ _ => rfl
  | cfg | i | sp | dt | st | status | dirty => rfl

/-- An instruction whose meaning is `writeReg x b` sets `V[x]` to `b`. -/
theorem setsReg_of_exec_eq_writeReg {i : Instr} {s : State} {x : Reg} {b : Byte}
    (h : exec i s = writeReg x b s) : SetsReg i s x b :=
  ⟨(s.setReg x b).advance, h, fun r => s.reg_setReg x r b, rfl, onlyChanged_setReg_advance s x b⟩

theorem exec_ldImm (x : Reg) (nn : Byte) (s : State) :
    exec (.ldImm x nn) s = writeReg x nn s := rfl

theorem exec_addImm (x : Reg) (nn : Byte) (s : State) :
    exec (.addImm x nn) s = writeReg x (s.reg x + nn) s := rfl

/-- Byte addition is addition modulo 256 (R171). -/
theorem byte_add_eq_ofNat_mod (a b : Byte) :
    a + b = BitVec.ofNat 8 ((a.toNat + b.toNat) % 256) := by
  apply BitVec.eq_of_toNat_eq
  simp

/-- Settles O18: both meanings are one plain register write, and the byte sum wraps by itself. -/
theorem immediatesLoadAndAddWithoutFlag : Obligations.ImmediatesLoadAndAddWithoutFlag := by
  intro x nn s
  have hld := setsReg_of_exec_eq_writeReg (exec_ldImm (regOf x) nn s)
  have hadd := setsReg_of_exec_eq_writeReg (exec_addImm (regOf x) nn s)
  rw [byte_add_eq_ofNat_mod] at hadd
  exact ⟨⟨decodeWord_nibblesByte_6 x nn, hld⟩, decodeWord_nibblesByte_7 x nn, hadd⟩

end Sys2Proof.Machine
end

section
/-! PROOFS. Loading the address register (43_index_memory.md R210): the fields of an `NNN` word, and what
writing `I` leaves unchanged. -/

namespace Sys2Proof.Machine

/-! ## The fields of a word written as a nibble and a 12-bit address (R91) -/

theorem nibbleAddr_toNat (op : BitVec 4) (nnn : BitVec 12) :
    (nibbleAddr op nnn).toNat = op.toNat * 0x1000 + nnn.toNat := by
  rw [nibbleAddr, BitVec.toNat_append, ← Nat.shiftLeft_add_eq_or_of_lt nnn.isLt, Nat.shiftLeft_eq]

@[simp] theorem opField_nibbleAddr (op : BitVec 4) (nnn : BitVec 12) :
    opField (nibbleAddr op nnn) = op := by
  apply BitVec.eq_of_toNat_eq
  rw [opField_toNat, nibbleAddr_toNat]
  omega

@[simp] theorem nnnField_nibbleAddr (op : BitVec 4) (nnn : BitVec 12) :
    nnnField (nibbleAddr op nnn) = nnn := by
  apply BitVec.eq_of_toNat_eq
  rw [nnnField_toNat, nibbleAddr_toNat]
  omega

/-- A zero-extended address keeps its number (R94). -/
theorem addrOf_toNat (nnn : BitVec 12) : (addrOf nnn).toNat = nnn.toNat :=
  BitVec.toNat_setWidth_of_le (by decide)

theorem addrOf_toNat_le (nnn : BitVec 12) : (addrOf nnn).toNat ≤ 0xFFF := by
  rw [addrOf_toNat]
  exact Nat.le_of_lt_succ nnn.isLt

theorem decodeWord_nibbleAddr_A (nnn : BitVec 12) :
    decodeWord (nibbleAddr 0xA#4 nnn) = .ok (.ldI (addrOf nnn)) := by
  simp [decodeWord]

/-! ## Writing the address register (R11, R123) -/

/-- Writing `I` and advancing touches `I` and `PC` alone. -/
theorem onlyChanged_setI_advance (s : State) (w : Word) :
    OnlyChanged [.i, .pc] s (s.setI w).advance := by
  intro p hp
  cases p with
  | i | pc => simp at hp
  | draw => exact ⟨rfl, rfl⟩
  | v | stack | mem | keys => exact fun _ => rfl
  | fb => exact fun _ _ => rfl
  | cfg | sp | dt | st | status | dirty => rfl

theorem exec_ldI (nnn : Word) (s : State) : exec (.ldI nnn) s = .next (s.setI nnn).advance := rfl

/-- Settles O26: `Annn` is one write of the zero-extended address to `I`. -/
theorem loadIndexIsTheAddress : Obligations.LoadIndexIsTheAddress := by
  intro nnn s
  exact ⟨decodeWord_nibbleAddr_A nnn, (s.setI (addrOf nnn)).advance, exec_ldI (addrOf nnn) s,
    addrOf_toNat nnn, addrOf_toNat_le nnn, rfl, onlyChanged_setI_advance s (addrOf nnn)⟩

end Sys2Proof.Machine
end

section
/-! PROOFS. Clearing the framebuffer (44_display.md R241): every pixel of a dark framebuffer is 0, and what
`00E0` leaves unchanged. -/

namespace Sys2Proof.Machine

theorem decodeWord_00E0 : decodeWord 0x00E0#16 = .ok .cls := rfl

/-! ## The dark framebuffer (R240, R241) -/

@[simp] theorem Framebuffer.pixel_dark (r : Fin 32) (c : Fin 64) :
    Framebuffer.dark.pixel r c = false := by
  rw [Framebuffer.pixel, Framebuffer.dark, Vector.getElem_replicate, Vector.getElem_replicate]

/-! ## Clearing and marking dirty (R241, R123) -/

theorem exec_cls (s : State) :
    exec .cls s = .next ((s.setFb Framebuffer.dark).setDirty true).advance := rfl

/-- Replacing the framebuffer, writing `dirty` and advancing touches `FB`, `dirty` and `PC` alone. -/
theorem onlyChanged_setFb_setDirty_advance (s : State) (f : Framebuffer) (b : Bool) :
    OnlyChanged [.fb, .dirty, .pc] s ((s.setFb f).setDirty b).advance := by
  intro p hp
  cases p with
  | fb | dirty | pc => simp at hp
  | draw => exact ⟨rfl, rfl⟩
  | v | stack | mem | keys => exact fun _ => rfl
  | cfg | i | sp | dt | st | status => rfl

/-- Settles O34: `00E0` is one write of the dark framebuffer and of `dirty`, whatever `FB` held. -/
theorem clearDarkensAndMarksDirty : Obligations.ClearDarkensAndMarksDirty := by
  intro s
  exact ⟨decodeWord_00E0, ((s.setFb Framebuffer.dark).setDirty true).advance, exec_cls s,
    Framebuffer.pixel_dark, rfl, rfl, onlyChanged_setFb_setDirty_advance s Framebuffer.dark true⟩

end Sys2Proof.Machine
end

section
/-! PROOFS. The encoder and the decoder are inverse to each other, and the opcode map says what decodes
(30_encoding.md R90 to R102). -/

namespace Sys2Proof

/-! ## The fields of the encoder's words (R91, R92) -/

@[simp] theorem regOf_ofFin (x : Reg) : regOf (BitVec.ofFin x) = x := rfl

@[simp] theorem opField_wordXYN (op : Nat) (x y : Reg) (n : Nat) :
    opField (wordXYN op x y n) = BitVec.ofNat 4 op := by
  apply BitVec.eq_of_toNat_eq
  simp only [opField_toNat, wordXYN, BitVec.toNat_ofNat]
  omega

@[simp] theorem xField_wordXYN (op : Nat) (x y : Reg) (n : Nat) :
    xField (wordXYN op x y n) = BitVec.ofFin x := by
  apply BitVec.eq_of_toNat_eq
  simp only [xField_toNat, wordXYN, BitVec.toNat_ofNat, BitVec.toNat_ofFin]
  omega

@[simp] theorem yField_wordXYN (op : Nat) (x y : Reg) (n : Nat) :
    yField (wordXYN op x y n) = BitVec.ofFin y := by
  apply BitVec.eq_of_toNat_eq
  simp only [yField_toNat, wordXYN, BitVec.toNat_ofNat, BitVec.toNat_ofFin]
  omega

@[simp] theorem nField_wordXYN (op : Nat) (x y : Reg) (n : Nat) :
    nField (wordXYN op x y n) = BitVec.ofNat 4 n := by
  apply BitVec.eq_of_toNat_eq
  simp only [nField_toNat, wordXYN, BitVec.toNat_ofNat]
  omega

@[simp] theorem opField_wordXNN (op : Nat) (x : Reg) (nn : Byte) :
    opField (wordXNN op x nn) = BitVec.ofNat 4 op := by
  apply BitVec.eq_of_toNat_eq
  simp only [opField_toNat, wordXNN, BitVec.toNat_ofNat]
  omega

@[simp] theorem xField_wordXNN (op : Nat) (x : Reg) (nn : Byte) :
    xField (wordXNN op x nn) = BitVec.ofFin x := by
  apply BitVec.eq_of_toNat_eq
  simp only [xField_toNat, wordXNN, BitVec.toNat_ofNat, BitVec.toNat_ofFin]
  omega

@[simp] theorem nnField_wordXNN (op : Nat) (x : Reg) (nn : Byte) :
    nnField (wordXNN op x nn) = nn := by
  apply BitVec.eq_of_toNat_eq
  simp only [nnField_toNat, wordXNN, BitVec.toNat_ofNat]
  omega

@[simp] theorem opField_wordNNN (op : Nat) (nnn : Word) :
    opField (wordNNN op nnn) = BitVec.ofNat 4 op := by
  apply BitVec.eq_of_toNat_eq
  simp only [opField_toNat, wordNNN, BitVec.toNat_ofNat]
  omega

theorem regOf_val (f : BitVec 4) : (regOf f).val = f.toNat := rfl

/-- The 12-bit field of a format `NNN` word is the operand again when it fits 12 bits (R94). -/
theorem addrOf_nnnField_wordNNN (op : Nat) {nnn : Word} (h : nnn.toNat < 0x1000) :
    addrOf (nnnField (wordNNN op nnn)) = nnn := by
  apply BitVec.eq_of_toNat_eq
  rw [Machine.addrOf_toNat, nnnField_toNat]
  simp only [wordNNN, BitVec.toNat_ofNat]
  omega

/-! ## Decoding an encoded instruction -/

/-- Decoding undoes encoding on words. -/
theorem decodeWord_encode {i : Instr} (h : i.wf = true) : decodeWord (encode i) = .ok i := by
  cases i with
  | cls | ret => rfl
  | jp nnn | call nnn | ldI nnn | jpV0 nnn =>
    have fits : nnn.toNat < 0x1000 := of_decide_eq_true h
    simp [encode, decodeWord, addrOf_nnnField_wordNNN _ fits]
  | drw x y n =>
    have fits : n < 16 := of_decide_eq_true h
    simp [encode, decodeWord, Nat.mod_eq_of_lt fits]
  | seImm x nn | sneImm x nn | ldImm x nn | addImm x nn | rnd x nn => simp [encode, decodeWord]
  | seReg x y | sneReg x y => simp [encode, decodeWord]
  | ldReg x y | or x y | and x y | xor x y | addReg x y | sub x y | shr x y | subn x y | shl x y =>
    simp [encode, decodeWord, decodeAlu]
  | skp x | sknp x => simp [encode, decodeWord]
  | ldVxDt x | ldVxK x | ldDtVx x | ldStVx x | addIVx x | ldFVx x | ldBVx x | ldMemVx x | ldVxMem x =>
    simp [encode, decodeWord, decodeMisc]

/-- The decoding of a word that is known to be an encoding. -/
theorem decodeWord_eq_ok_of_encode_eq {i : Instr} {w : Word} (h : i.wf = true) (e : encode i = w) :
    decodeWord w = .ok i :=
  e ▸ decodeWord_encode h

/-- The two bytes of a word, high byte first, make the word again (R63). -/
theorem wordOfBytes_hiByte_loByte (w : Word) : wordOfBytes (hiByte w) (loByte w) = w := by
  apply BitVec.eq_of_toNat_eq
  have := w.isLt
  rw [wordOfBytes, BitVec.toNat_append, ← Nat.shiftLeft_add_eq_or_of_lt (loByte w).isLt, Nat.shiftLeft_eq]
  simp only [hiByte, loByte, BitVec.extractLsb'_toNat, Nat.shiftRight_eq_div_pow]
  omega

theorem decodeBytes_of_decodeWord {hi lo : Byte} {i : Instr} (h : decodeWord (wordOfBytes hi lo) = .ok i)
    (rest : List Byte) : decodeBytes (hi :: lo :: rest) = .ok (i, rest) := by
  simp only [decodeBytes, h]

/-- Settles O3: by the fields of the encoder's words, format by format. -/
theorem decodeUndoesEncode : Obligations.DecodeUndoesEncode := by
  intro i rest h
  refine ⟨decodeWord_encode h, decodeBytes_of_decodeWord ?_ rest⟩
  rw [wordOfBytes_hiByte_loByte]
  exact decodeWord_encode h

/-! ## A word from its family and its operands (R92) -/

variable {w : Word} {op : Nat}

theorem eq_wordNNN (h : (opField w).toNat = op) : wordNNN op (addrOf (nnnField w)) = w := by
  apply BitVec.eq_of_toNat_eq
  rw [opField_toNat] at h
  have := w.isLt
  rw [wordNNN_toNat (by omega), Machine.addrOf_toNat, nnnField_toNat]
  omega

theorem eq_wordXNN (h : (opField w).toNat = op) {nn : Byte} (hnn : nnField w = nn) :
    wordXNN op (regOf (xField w)) nn = w := by
  apply BitVec.eq_of_toNat_eq
  rw [opField_toNat] at h
  have := w.isLt
  rw [wordXNN_toNat (by omega), ← hnn, nnField_toNat, regOf_val, xField_toNat]
  omega

theorem eq_wordXYN (h : (opField w).toNat = op) {n : Nat} (hn : (nField w).toNat = n) :
    wordXYN op (regOf (xField w)) (regOf (yField w)) n = w := by
  apply BitVec.eq_of_toNat_eq
  rw [opField_toNat] at h
  have := w.isLt
  rw [wordXYN_toNat (by omega), ← hn, nField_toNat, regOf_val, regOf_val, xField_toNat, yField_toNat]
  omega

theorem fits12_addrOf (f : BitVec 12) : fits12 (addrOf f) = true :=
  decide_eq_true (by rw [Machine.addrOf_toNat]; exact f.isLt)

/-! ## Encoding a decoded word -/

/-- A word that the family-8 decoder accepts is the encoding of what it decodes to. -/
theorem encode_of_decodeAlu {i : Instr} (hop : (opField w).toNat = 8) (h : decodeAlu w = .ok i) :
    i.wf = true ∧ encode i = w := by
  unfold decodeAlu at h
  split at h <;> cases h <;> rename_i hn <;> exact ⟨rfl, eq_wordXYN hop hn⟩

/-- A word that the family-F decoder accepts is the encoding of what it decodes to. -/
theorem encode_of_decodeMisc {i : Instr} (hop : (opField w).toNat = 15) (h : decodeMisc w = .ok i) :
    i.wf = true ∧ encode i = w := by
  unfold decodeMisc at h
  split at h <;> cases h <;> rename_i hnn <;> exact ⟨rfl, eq_wordXNN hop (BitVec.eq_of_toNat_eq hnn)⟩

theorem encode_of_decodeWord {i : Instr} (h : decodeWord w = .ok i) : i.wf = true ∧ encode i = w := by
  have hop := (opField w).isLt
  unfold decodeWord at h
  split at h
  case h_1 =>
    split_ifs at h with h0 h1 <;> cases h
    · exact ⟨rfl, h0.symm⟩
    · exact ⟨rfl, h1.symm⟩
  case h_6 h5 =>
    split_ifs at h with hn
    cases h
    exact ⟨rfl, eq_wordXYN h5 (congrArg BitVec.toNat hn)⟩
  case h_9 h8 => exact encode_of_decodeAlu h8 h
  case h_10 h9 =>
    split_ifs at h with hn
    cases h
    exact ⟨rfl, eq_wordXYN h9 (congrArg BitVec.toNat hn)⟩
  case h_14 hD =>
    cases h
    exact ⟨decide_eq_true (nField w).isLt, eq_wordXYN hD rfl⟩
  case h_15 hE =>
    dsimp only at h
    split_ifs at h with h0 h1 <;> cases h
    · exact ⟨rfl, eq_wordXNN hE h0⟩
    · exact ⟨rfl, eq_wordXNN hE h1⟩
  case h_16 =>
    have hF : (opField w).toNat = 15 := by simp only [imp_false] at *; omega
    exact encode_of_decodeMisc hF h
  case h_2 hf | h_3 hf | h_11 hf | h_12 hf =>
    cases h
    exact ⟨fits12_addrOf _, eq_wordNNN hf⟩
  case h_4 hf | h_5 hf | h_7 hf | h_8 hf | h_13 hf =>
    cases h
    exact ⟨rfl, eq_wordXNN hf rfl⟩

/-- Settles O4: every branch of the decoder keeps the family and the fields the format needs. -/
theorem encodeUndoesDecode : Obligations.EncodeUndoesDecode :=
  fun _ _ => encode_of_decodeWord

/-- The only way a word is rejected is as an unknown opcode (R102). -/
theorem eq_unknownOpcode_of_decodeWord {e : Reject} (h : decodeWord w = .error e) : e = .unknownOpcode w := by
  unfold decodeWord decodeAlu decodeMisc at h
  split at h
  case h_9 | h_16 =>
    split at h <;> cases h
    rfl
  case h_1 | h_6 | h_10 | h_15 =>
    dsimp only at h
    split_ifs at h
    cases h
    rfl
  all_goals cases h

/-! ## The opcode map (R101, R102) -/

/-- Every row of the map is the row of some instruction. -/
theorem exists_rowOf_eq {r : OpcodeRow} (h : r ∈ opcodeMap) : ∃ i, rowOf i = r := by
  revert r
  simp [opcodeMap]

theorem rowOf_mem_opcodeMap (i : Instr) : rowOf i ∈ opcodeMap := by
  cases i <;> simp [opcodeMap, rowOf]

/-- Two rows that a single word matches agree where both fix a bit; no two rows of the map do. -/
theorem row_eq_of_holds {r r' : OpcodeRow} (hr : r ∈ opcodeMap) (hr' : r' ∈ opcodeMap)
    (h : r.holds w) (h' : r'.holds w) : r = r' := by
  have distinct : ∀ r ∈ opcodeMap, ∀ r' ∈ opcodeMap, r.fixed &&& r'.mask = r'.fixed &&& r.mask → r = r' := by
    decide
  refine distinct r hr r' hr' ?_
  rw [← h, ← h', BitVec.and_assoc, BitVec.and_assoc, BitVec.and_comm r.mask]

/-- The word of an instruction fits the instruction's row, all rows together. -/
theorem rowOf_holds_encode (i : Instr) : (rowOf i).holds (encode i) := by
  cases i with
  | cls => exact Laws.EncodeFitsRow.cls
  | ret => exact Laws.EncodeFitsRow.ret
  | jp nnn => exact Laws.EncodeFitsRow.jp nnn
  | call nnn => exact Laws.EncodeFitsRow.call nnn
  | ldI nnn => exact Laws.EncodeFitsRow.ldI nnn
  | jpV0 nnn => exact Laws.EncodeFitsRow.jpV0 nnn
  | seImm x nn | sneImm x nn | ldImm x nn | addImm x nn | rnd x nn =>
    exact Laws.EncodeFitsRow.xnn_row (by decide) x nn
  | seReg x y | sneReg x y | ldReg x y | or x y | and x y | xor x y | addReg x y | sub x y | shr x y
  | subn x y | shl x y => exact Laws.EncodeFitsRow.xy_row (by decide) (by decide) x y
  | drw x y n => exact Laws.EncodeFitsRow.drw x y n
  | skp x | sknp x | ldVxDt x | ldVxK x | ldDtVx x | ldStVx x | addIVx x | ldFVx x | ldBVx x | ldMemVx x
  | ldVxMem x => exact Laws.EncodeFitsRow.x_row (by decide) x _

/-! ### A word that a row matches has the row's family and selector -/

theorem opField_eq_of_family {f : Word} (h : w &&& 0xF000#16 = f) : opField w = opField f := by
  apply BitVec.eq_of_toNat_eq
  rw [opField_toNat, opField_toNat, ← h, mask_family]
  omega

theorem fields_eq_of_familyN {f : Word} (h : w &&& 0xF00F#16 = f) :
    opField w = opField f ∧ nField w = nField f := by
  refine ⟨BitVec.eq_of_toNat_eq ?_, BitVec.eq_of_toNat_eq ?_⟩
  · rw [opField_toNat, opField_toNat, ← h, mask_familyN]
    omega
  · rw [nField_toNat, nField_toNat, ← h, mask_familyN]
    omega

theorem fields_eq_of_familyNN {f : Word} (h : w &&& 0xF0FF#16 = f) :
    opField w = opField f ∧ nnField w = nnField f := by
  refine ⟨BitVec.eq_of_toNat_eq ?_, BitVec.eq_of_toNat_eq ?_⟩
  · rw [opField_toNat, opField_toNat, ← h, mask_familyNN]
    omega
  · rw [nnField_toNat, nnField_toNat, ← h, mask_familyNN]
    omega

/-- A word that a row matches decodes: the dispatch reads the family and the selector alone. -/
theorem decodeWord_ok_of_row_holds (i : Instr) (h : (rowOf i).holds w) : ∃ j, decodeWord w = .ok j := by
  cases i with
  | cls | ret =>
    obtain rfl := (BitVec.and_allOnes (x := w)).symm.trans h
    exact ⟨_, rfl⟩
  | jp | call | ldI | jpV0 | seImm | sneImm | ldImm | addImm | rnd | drw =>
    rw [decodeWord, opField_eq_of_family h]
    simp [rowOf, opField]
  | seReg | sneReg =>
    obtain ⟨hop, hn⟩ := fields_eq_of_familyN h
    rw [decodeWord, hop, hn]
    simp [rowOf, opField, nField]
  | ldReg | or | and | xor | addReg | sub | shr | subn | shl =>
    obtain ⟨hop, hn⟩ := fields_eq_of_familyN h
    rw [decodeWord, hop, decodeAlu, hn]
    simp [rowOf, opField, nField]
  | skp | sknp =>
    obtain ⟨hop, hnn⟩ := fields_eq_of_familyNN h
    rw [decodeWord, hop, hnn]
    simp [rowOf, opField, nnField]
  | ldVxDt | ldVxK | ldDtVx | ldStVx | addIVx | ldFVx | ldBVx | ldMemVx | ldVxMem =>
    obtain ⟨hop, hnn⟩ := fields_eq_of_familyNN h
    rw [decodeWord, hop, decodeMisc, hnn]
    simp [rowOf, opField, nnField]

/-- A decoded word belongs to the row of what it decodes to. -/
theorem rowOf_holds_of_decodeWord {i : Instr} (h : decodeWord w = .ok i) : (rowOf i).holds w := by
  obtain ⟨-, rfl⟩ := encode_of_decodeWord h
  exact rowOf_holds_encode i

theorem decodeWord_eq_error_iff :
    decodeWord w = .error (.unknownOpcode w) ↔ ∀ r ∈ opcodeMap, ¬ r.holds w := by
  constructor
  · intro h r hr hw
    obtain ⟨i, rfl⟩ := exists_rowOf_eq hr
    obtain ⟨j, hj⟩ := decodeWord_ok_of_row_holds i hw
    simp [hj] at h
  · intro h
    cases hd : decodeWord w with
    | ok i => exact absurd (rowOf_holds_of_decodeWord hd) (h _ (rowOf_mem_opcodeMap i))
    | error e => rw [eq_unknownOpcode_of_decodeWord hd]

/-- Settles O6: a matched word has its row's family and selector, by which the dispatch accepts it, and the
instruction it decodes to belongs to the one row that matches. -/
theorem opcodeMapDecidesWhatDecodes : Obligations.OpcodeMapDecidesWhatDecodes := by
  refine ⟨rfl, fun w => ⟨fun r hr hw => ?_, decodeWord_eq_error_iff.mpr,
    fun r hr r' hr' => row_eq_of_holds hr hr'⟩⟩
  obtain ⟨i, rfl⟩ := exists_rowOf_eq hr
  obtain ⟨j, hj⟩ := decodeWord_ok_of_row_holds i hw
  exact ⟨j, hj, row_eq_of_holds (rowOf_mem_opcodeMap j) hr (rowOf_holds_of_decodeWord hj) hw⟩

/-- Settles O2: each word is a literal, so the dispatch runs. -/
theorem wordsWrittenOutDecode : Obligations.WordsWrittenOutDecode := by
  unfold Obligations.WordsWrittenOutDecode
  decide

end Sys2Proof
end

section
/-! PROOFS. Frames, and everything an instruction can do: it completes in one of a few shapes, each of which
writes only its parts, or it takes one of its faults and writes `status` alone (files 41 to 45;
60_exceptions.md R309). -/

namespace Sys2Proof.Machine

/-! ## Frames -/

/-- A frame read off the fields: every piece that is not listed has an equal field. The field lemmas of State
discharge the premises of an update. -/
theorem OnlyChanged.of_fields {ps : List Part} {s t : State}
    (cfg : t.cfg = s.cfg := by simp) (v : .v ∉ ps → t.v = s.v := by simp)
    (i : .i ∉ ps → t.i = s.i := by simp) (pc : .pc ∉ ps → t.pc = s.pc := by simp)
    (stack : .stack ∉ ps → t.stack = s.stack := by simp) (sp : .sp ∉ ps → t.sp = s.sp := by simp)
    (dt : .dt ∉ ps → t.dt = s.dt := by simp) (st : .st ∉ ps → t.st = s.st := by simp)
    (mem : .mem ∉ ps → t.mem = s.mem := by simp) (fb : .fb ∉ ps → t.fb = s.fb := by simp)
    (keys : .keys ∉ ps → t.keys = s.keys := by simp)
    (status : .status ∉ ps → t.status = s.status := by simp)
    (dirty : .dirty ∉ ps → t.dirty = s.dirty := by simp)
    (draw : .draw ∉ ps → t.rndIn = s.rndIn ∧ t.draws = s.draws := by simp) : OnlyChanged ps s t := by
  intro p hp
  cases p with
  | cfg => exact cfg
  | v => exact State.reg_congr (v hp)
  | i => exact i hp
  | pc => exact pc hp
  | stack => exact fun j => by rw [State.stackAt, stack hp, State.stackAt]
  | sp => exact sp hp
  | dt => exact dt hp
  | st => exact st hp
  | mem => exact State.byteAt_congr cfg (mem hp)
  | fb => exact State.pixel_congr (fb hp)
  | keys => exact State.key_congr (keys hp)
  | status => exact status hp
  | dirty => exact dirty hp
  | draw => exact draw hp

theorem Part.Same.refl (p : Part) (s : State) : p.Same s s := by
  cases p with
  | draw => exact ⟨rfl, rfl⟩
  | v | stack | mem | keys => exact fun _ => rfl
  | fb => exact fun _ _ => rfl
  | cfg | i | pc | sp | dt | st | status | dirty => rfl

theorem OnlyChanged.refl (ps : List Part) (s : State) : OnlyChanged ps s s := fun p _ => Part.Same.refl p s

theorem OnlyChanged.mono {ps qs : List Part} {s t : State} (h : OnlyChanged ps s t) (hsub : ps ⊆ qs) :
    OnlyChanged qs s t :=
  fun p hp => h p fun hps => hp (hsub hps)

theorem onlyChanged_setStatus (s : State) (x : Status) : OnlyChanged [.status] s (s.setStatus x) := .of_fields

theorem onlyChanged_setPc (s : State) (w : Word) : OnlyChanged [.pc] s (s.setPc w) := .of_fields

theorem onlyChanged_advance (s : State) : OnlyChanged [.pc] s s.advance := .of_fields

theorem onlyChanged_skipIf (s : State) (c : Bool) : OnlyChanged [.pc] s (s.skipIf c) := .of_fields

/-- A run of byte writes replaces memory alone, by a canonical one when the old one was canonical. -/
theorem State.setBytes_fields (s : State) (base : Nat) (bs : List Byte) :
    ∃ m, s.setBytes base bs = s.setMem m ∧ (Memory.wf s.cfg s.mem = true → Memory.wf s.cfg m = true) :=
  ⟨_, s.setBytes_eq base bs, s.wf_setBytes base bs⟩

/-! ## What an instruction can do -/

/-- From `s`, instruction `i` completes in `t`: the shapes a completed instruction can have. -/
inductive Completes (s : State) : Instr → State → Prop
  | cls : Completes s .cls ((s.setFb Framebuffer.dark).setDirty true).advance
  | ret : s.sp.val ≠ 0 → Completes s .ret s.pop
  | jp (nnn : Word) : Completes s (.jp nnn) (s.setPc nnn)
  | jpV0 (nnn : Word) : Completes s (.jpV0 nnn) (s.setPc (s.offsetTarget nnn))
  | call (nnn : Word) (h : s.sp.val < 16) : Completes s (.call nnn) ((s.push (s.pc + 2#16) h).setPc nnn)
  /-- The skips. -/
  | skip {i : Instr} (c : Bool) : written i = [.pc] → Completes s i (s.skipIf c)
  /-- One result to one register. -/
  | result {i : Instr} (x : Reg) (b : Byte) :
      written i = [.v, .pc] → (∀ r, mayWriteReg i r = false → r ≠ x) → Completes s i (s.setReg x b).advance
  /-- One result to one register, and then the flag. -/
  | resultFlag {i : Instr} (x : Reg) (b : Byte) (f : Bool) :
      written i = [.v, .pc] → (∀ r, mayWriteReg i r = false → r ≠ x ∧ r ≠ VF) →
      Completes s i ((s.setReg x b).setFlag f).advance
  | rnd (x : Reg) (nn : Byte) : Completes s (.rnd x nn) (s.takeDraw.setReg x (s.drawn &&& nn)).advance
  /-- `Fx0A` with every key up. -/
  | wait (x : Reg) : s.lowestKeyDown = none → Completes s (.ldVxK x) s
  /-- A new address in `I`. -/
  | index {i : Instr} (w : Word) : written i = [.i, .pc] → Completes s i (s.setI w).advance
  | addIVx (x : Reg) (w : Word) (f : Bool) : Completes s (.addIVx x) ((s.setI w).setFlag f).advance
  | ldDtVx (x : Reg) : Completes s (.ldDtVx x) (s.setDt (s.reg x)).advance
  | ldStVx (x : Reg) : Completes s (.ldStVx x) (s.setSt (s.reg x)).advance
  | drw (x y : Reg) (n : Nat) (d : Drawing) : Completes s (.drw x y n) (s.finishDraw d)
  | ldBVx (x : Reg) (m : Memory) (wf : Memory.wf s.cfg s.mem = true → Memory.wf s.cfg m = true) :
      Completes s (.ldBVx x) (s.setMem m).advance
  | ldMemVx (x : Reg) (m : Memory) (w : Word) (wf : Memory.wf s.cfg s.mem = true → Memory.wf s.cfg m = true) :
      Completes s (.ldMemVx x) ((s.setMem m).setI w).advance
  | ldVxMem (x : Reg) (w : Word) :
      Completes s (.ldVxMem x) ((s.setRegs (s.loadedRegs s.base (x.val + 1))).setI w).advance

/-- In `s`, instruction `i` can take the fault `name` with the information `info` (R301 to R305). -/
inductive Faults (s : State) : Instr → Fault → Nat → Prop
  | memory (i : Instr) {a : Nat} : 4096 ≤ a → a ≤ 0xFFFF → Faults s i .memoryFault a
  | overflow (nnn : Word) : s.sp.val = 16 → Faults s (.call nnn) .stackOverflow 16
  | underflow : s.sp.val = 0 → Faults s .ret .stackUnderflow 0
  | key {i : Instr} {x : Reg} : i = .skp x ∨ i = .sknp x → 15 < (s.reg x).toNat →
      Faults s i .invalidKeyIndex (s.reg x).toNat

/-- The state of a core that took the fault `name` at the instruction `i` (R309, R310). -/
def State.faulted (s : State) (i : Instr) (name : Fault) (info : Nat) : State :=
  s.setStatus (.halted ⟨name, s.pc, some (encode i), info⟩)

/-- `exec i` from `s` is to end in `t`, completed or with a fault. -/
def Answers (i : Instr) (s : State) (o : Result) : Prop :=
  ∃ t, o = .next t ∧ (Completes s i t ∨ ∃ name info, Faults s i name info ∧ t = s.faulted i name info)

theorem Answers.of_completes {i : Instr} {s t : State} (h : Completes s i t) : Answers i s (.next t) :=
  ⟨t, rfl, .inl h⟩

theorem Answers.of_faults {i : Instr} {s : State} {name : Fault} {info : Nat} (h : Faults s i name info) :
    Answers i s (.next (s.faulted i name info)) :=
  ⟨_, rfl, .inr ⟨name, info, h, rfl⟩⟩

/-- A memory instruction passes its range check or faults on an address past the end (R73). -/
theorem answers_withRange {i : Instr} {s t : State} (n : Nat) (h : Completes s i t) :
    Answers i s (withRange s.base n i s (.next t)) := by
  rw [withRange_eq]
  split
  · exact .of_completes h
  · refine .of_faults (.memory i (Nat.le_max_right _ _) (max_le ?_ (by decide)))
    exact Nat.le_of_lt_succ s.i.isLt

/-- A key instruction names a key or faults on the index (R266). -/
theorem answers_withKey {i : Instr} {s : State} {x : Reg} {k : Bool → Result} (hi : i = .skp x ∨ i = .sknp x)
    (hk : ∀ down, Answers i s (k down)) : Answers i s (withKey x i s k) := by
  rw [withKey_eq]
  split
  · exact hk _
  · exact .of_faults (.key hi (by omega))

/-! ### The two ways of the instructions that test the stack or the keypad -/

theorem exec_ret_of_ne_zero {s : State} (h : s.sp.val ≠ 0) : exec .ret s = .next s.pop := if_neg h

theorem exec_ret_of_zero {s : State} (h : s.sp.val = 0) :
    exec .ret s = .next (s.faulted .ret .stackUnderflow 0) := by
  simp only [exec, execRet, h, if_true, raise_eq, State.faulted]

theorem exec_call_of_lt (nnn : Word) {s : State} (h : s.sp.val < 16) :
    exec (.call nnn) s = .next ((s.push (s.pc + 2#16) h).setPc nnn) := dif_pos h

theorem exec_call_of_full (nnn : Word) {s : State} (h : s.sp.val = 16) :
    exec (.call nnn) s = .next (s.faulted (.call nnn) .stackOverflow 16) := by
  simp [exec, execCall, h, raise_eq, State.faulted]

theorem exec_skp (x : Reg) (s : State) :
    exec (.skp x) s = withKey x (.skp x) s fun down => .next (s.skipIf down) := rfl

theorem exec_sknp (x : Reg) (s : State) :
    exec (.sknp x) s = withKey x (.sknp x) s fun down => .next (s.skipIf !down) := rfl

theorem exec_ldVxK_of_none (x : Reg) {s : State} (h : s.lowestKeyDown = none) :
    exec (.ldVxK x) s = .next s := by
  simp only [exec, execLdVxK, h]

theorem exec_ldVxK_of_some (x : Reg) {s : State} {k : Fin 16} (h : s.lowestKeyDown = some k) :
    exec (.ldVxK x) s = writeReg x (BitVec.ofNat 8 k.val) s := by
  simp only [exec, execLdVxK, h]

/-- Every instruction completes in one of its shapes or takes one of its faults. -/
theorem exec_cases (i : Instr) (s : State) : Answers i s (exec i s) := by
  cases i with
  | cls => exact .of_completes .cls
  | ret =>
    by_cases h : s.sp.val = 0
    · exact exec_ret_of_zero h ▸ .of_faults (.underflow h)
    · exact exec_ret_of_ne_zero h ▸ .of_completes (.ret h)
  | jp nnn => exact .of_completes (.jp nnn)
  | jpV0 nnn => exact .of_completes (.jpV0 nnn)
  | call nnn =>
    by_cases h : s.sp.val < 16
    · exact exec_call_of_lt nnn h ▸ .of_completes (.call nnn h)
    · have full : s.sp.val = 16 := by omega
      exact exec_call_of_full nnn full ▸ .of_faults (.overflow nnn full)
  | seImm x nn | sneImm x nn | seReg x y | sneReg x y => exact .of_completes (.skip _ rfl)
  | ldImm x nn | addImm x nn | ldReg x y | or x y | and x y | xor x y | ldVxDt x =>
    exact .of_completes (.result x _ rfl (by simp [mayWriteReg]))
  | addReg x y | sub x y | shr x y | subn x y | shl x y =>
    exact .of_completes (.resultFlag x _ _ rfl (by simp [mayWriteReg]))
  | rnd x nn => exact .of_completes (.rnd x nn)
  | ldI nnn => exact .of_completes (.index _ rfl)
  | ldFVx x => exact .of_completes (.index _ rfl)
  | addIVx x => exact .of_completes (.addIVx x _ _)
  | skp x =>
    rw [exec_skp]
    exact answers_withKey (.inl rfl) fun _ => .of_completes (.skip _ rfl)
  | sknp x =>
    rw [exec_sknp]
    exact answers_withKey (.inr rfl) fun _ => .of_completes (.skip _ rfl)
  | ldVxK x =>
    cases h : s.lowestKeyDown with
    | none => exact exec_ldVxK_of_none x h ▸ .of_completes (.wait x h)
    | some k => exact exec_ldVxK_of_some x h ▸ .of_completes (.result x _ rfl (by simp [mayWriteReg]))
  | ldDtVx x => exact .of_completes (.ldDtVx x)
  | ldStVx x => exact .of_completes (.ldStVx x)
  | drw x y n => exact answers_withRange n (.drw x y n _)
  | ldBVx x =>
    obtain ⟨m, hm, hwf⟩ := s.setBytes_fields s.base (bcdDigits (s.reg x))
    exact answers_withRange 3 (hm ▸ .ldBVx x m hwf)
  | ldMemVx x =>
    obtain ⟨m, hm, hwf⟩ := s.setBytes_fields s.base (s.regsUpTo x)
    exact answers_withRange (x.val + 1) (hm ▸ .ldMemVx x m _ hwf)
  | ldVxMem x => exact answers_withRange (x.val + 1) (.ldVxMem x _)

/-! ### The table of written parts -/

theorem notMem_written (i : Instr) : .cfg ∉ written i ∧ .keys ∉ written i ∧ .status ∉ written i := by
  cases i <;> simp [written]

theorem dt_mem_written {i : Instr} (h : .dt ∈ written i) : ∃ x, i = .ldDtVx x := by
  cases i <;> simp [written] at h ⊢

theorem st_mem_written {i : Instr} (h : .st ∈ written i) : ∃ x, i = .ldStVx x := by
  cases i <;> simp [written] at h ⊢

/-! ### A completed instruction -/

namespace Completes

variable {i : Instr} {s t : State}

/-- A completed instruction writes only the parts the table lists. -/
theorem onlyChanged (h : Completes s i t) : OnlyChanged (written i) s t := by
  cases h with
  | skip c hw => exact hw ▸ onlyChanged_skipIf s c
  | result x b hw => exact hw ▸ onlyChanged_setReg_advance s x b
  | resultFlag x b f hw => exact hw ▸ .of_fields
  | index w hw => exact hw ▸ onlyChanged_setI_advance s w
  | wait => exact .refl _ s
  | cls => exact onlyChanged_setFb_setDirty_advance s _ true
  | ret | jp | jpV0 | call | rnd | addIVx | ldDtVx | ldStVx | drw | ldBVx | ldMemVx | ldVxMem =>
    dsimp only [written, State.finishDraw]
    exact .of_fields

/-- A completed instruction writes only the registers the table lists. -/
theorem reg_eq (h : Completes s i t) {r : Reg} (hr : mayWriteReg i r = false) : t.reg r = s.reg r := by
  cases h with
  | result x b _ hx => exact (s.reg_setReg x r b).trans (if_neg (hx r hr))
  | resultFlag x b f _ hx =>
    obtain ⟨hrx, hrf⟩ := hx r hr
    exact ((s.setReg x b).reg_setFlag f r).trans ((if_neg hrf).trans ((s.reg_setReg x r b).trans (if_neg hrx)))
  | rnd x nn => exact (s.takeDraw.reg_setReg x r _).trans (if_neg (by simpa [mayWriteReg] using hr))
  | addIVx x w f => exact ((s.setI w).reg_setFlag f r).trans (if_neg (by simpa [mayWriteReg] using hr))
  | drw x y n d =>
    exact (((s.setFb d.fb).setDirty true).reg_setFlag d.collide r).trans
      (if_neg (by simpa [mayWriteReg] using hr))
  | ldVxMem x w =>
    have hxr : ¬ r ≤ x := of_decide_eq_false hr
    exact (s.loadedRegs_get s.base (x.val + 1) r.val r.isLt).trans
      (if_neg fun hlt => hxr (Nat.le_of_lt_succ hlt))
  | cls | ret | jp | jpV0 | call | skip | wait | index | ldDtVx | ldStVx | ldBVx | ldMemVx => rfl

theorem cfg_eq (h : Completes s i t) : t.cfg = s.cfg := h.onlyChanged .cfg (notMem_written i).1

theorem keys_same (h : Completes s i t) : Part.keys.Same s t := h.onlyChanged .keys (notMem_written i).2.1

theorem status_eq (h : Completes s i t) : t.status = s.status := h.onlyChanged .status (notMem_written i).2.2

/-- `dirty` is only ever set by an instruction (R44). -/
theorem dirty_of_dirty (h : Completes s i t) (hs : s.dirty = true) : t.dirty = true := by
  cases h with
  | cls | drw => rfl
  | _ => exact hs

end Completes

/-! ### A fault of an instruction -/

theorem onlyChanged_faulted (s : State) (i : Instr) (name : Fault) (info : Nat) :
    OnlyChanged [.status] s (s.faulted i name info) :=
  onlyChanged_setStatus s _

/-- An instruction always answers a next state. -/
theorem exec_next (i : Instr) (s : State) : ∃ t, exec i s = .next t := by
  obtain ⟨t, e, -⟩ := exec_cases i s
  exact ⟨t, e⟩

/-- The two ways an instruction can go, of the state it answers. -/
theorem exec_inv {i : Instr} {s t : State} (h : exec i s = .next t) :
    Completes s i t ∨ ∃ name info, Faults s i name info ∧ t = s.faulted i name info := by
  obtain ⟨u, e, hu⟩ := exec_cases i s
  cases h.symm.trans e
  exact hu

/-- Settles O50: a completed instruction writes its parts and leaves `status`; a faulting one writes `status`. -/
theorem everyInstructionWritesOnlyItsParts : Obligations.EveryInstructionWritesOnlyItsParts := by
  intro i s t h
  rcases exec_inv h with hc | ⟨name, info, -, rfl⟩
  · exact ⟨hc.onlyChanged.mono (List.subset_cons_self _ _), fun r => hc.reg_eq, .inl hc.status_eq⟩
  · exact ⟨(onlyChanged_faulted s i name info).mono (by simp), fun _ _ => rfl, .inr ⟨_, rfl⟩⟩

end Sys2Proof.Machine
end

section
/-! PROOFS. Everything a cycle can do, together with the result it returns (40_cycle.md R120 to R124;
60_exceptions.md R306, R309, R312), and what follows for every step. -/

namespace Sys2Proof.Machine

/-! ## One cycle and its result -/

/-- The core runs, the word at `PC` is in range and decodes to `i`. -/
structure Runs (s : State) (i : Instr) : Prop where
  running : s.status = .running
  inRange : s.pc.toNat + 1 < 4096
  decodes : decodeWord (fetchedWord s) = .ok i

/-- The record of a fetch fault at `PC` (R122; 92 D5, D32). -/
def State.fetchRecord (s : State) : FaultRecord := ⟨.memoryFault, s.pc, none, max s.pc.toNat 4096⟩

/-- From `s` a cycle can end in `t` and return `r`. -/
inductive Cycled (s : State) : State → CycleResult → Prop
  | halted {f : FaultRecord} : s.status = .halted f → Cycled s s (.halted f)
  | fetchFault : s.status = .running → ¬ s.pc.toNat + 1 < 4096 →
      Cycled s (s.setStatus (.halted s.fetchRecord)) (.fault s.fetchRecord)
  | unknown : s.status = .running → s.pc.toNat + 1 < 4096 →
      decodeWord (fetchedWord s) = .error (.unknownOpcode (fetchedWord s)) →
      Cycled s s.advance (.unknown (fetchedWord s) s.pc)
  | waiting {x : Reg} : Runs s (.ldVxK x) → (∀ k, s.key k = false) → Cycled s s .waiting
  | executed {i : Instr} {t : State} : Runs s i → exec i s = .next t → Completes s i t → Cycled s t .executed
  | fault {i : Instr} {name : Fault} {info : Nat} : Runs s i → Faults s i name info →
      Cycled s (s.faulted i name info) (.fault ⟨name, s.pc, some (encode i), info⟩)

section

variable {s t : State} {i : Instr} {r : CycleResult}

theorem step_of_runs (h : Runs s i) : step s = exec i s := by
  have hd : decodeWord (wordOfBytes (s.byteAt s.pc.toNat) (s.byteAt (s.pc.toNat + 1))) = .ok i := h.decodes
  simp only [step, cycle, h.running, State.fetch_eq, h.inRange, if_true, hd]

theorem cycleResult_of_runs (h : Runs s i) (he : exec i s = .next t) :
    cycleResult s = .next (resultOfStatus i s t.status) := by
  have hd : decodeWord (wordOfBytes (s.byteAt s.pc.toNat) (s.byteAt (s.pc.toNat + 1))) = .ok i := h.decodes
  simp only [cycleResult, h.running, State.fetch_eq, h.inRange, if_true, hd, he]

theorem waits_eq_true (h : waits i s = true) : ∃ x, i = .ldVxK x ∧ s.lowestKeyDown = none := by
  cases i with
  | ldVxK x => exact ⟨x, rfl, by simpa [waits] using h⟩
  | _ => exact absurd h (by simp [waits])

/-- A cycle that runs an instruction waits, completes it or takes its fault. -/
theorem cycled_of_runs (h : Runs s i) (he : exec i s = .next t) :
    Cycled s t (resultOfStatus i s t.status) := by
  rcases exec_inv he with hc | ⟨name, info, hf, rfl⟩
  · rw [hc.status_eq, h.running]
    by_cases hw : waits i s = true
    · obtain ⟨x, rfl, hup⟩ := waits_eq_true hw
      cases he.symm.trans (exec_ldVxK_of_none x hup)
      simp only [resultOfStatus, hw, if_true]
      exact .waiting h (s.lowestKeyDown_eq_none.mp hup)
    · simp only [resultOfStatus, hw]
      exact .executed h he hc
  · exact .fault h hf

/-- Every cycle answers a next state and a result, and this is how they go together. -/
theorem step_cycled (s : State) : ∃ t r, step s = .next t ∧ cycleResult s = .next r ∧ Cycled s t r := by
  rcases cycle_cases s with ⟨f, hs, hc⟩ | ⟨hs, hp, hc⟩ | ⟨i, hs, hp, hd, hc⟩ | ⟨e, hs, hp, hd, hc⟩
  · exact ⟨s, _, hc, by simp [cycleResult, hs], .halted hs⟩
  · exact ⟨_, _, hc, by simp [cycleResult, hs, State.fetch_eq, hp, State.fetchRecord], .fetchFault hs hp⟩
  · obtain ⟨t, he⟩ := exec_next i s
    have hr : Runs s i := ⟨hs, hp, hd⟩
    exact ⟨t, _, hc.trans he, cycleResult_of_runs hr he, cycled_of_runs hr he⟩
  · obtain rfl := eq_unknownOpcode_of_decodeWord hd
    refine ⟨_, _, hc, ?_, .unknown hs hp hd⟩
    simp only [cycleResult, hs, State.fetch_eq, hp, if_true, hd]
    rfl

theorem cycled_of_step_of_result (ht : step s = .next t) (hr : cycleResult s = .next r) : Cycled s t r := by
  obtain ⟨t', r', ht', hr', hc⟩ := step_cycled s
  cases ht.symm.trans ht'
  cases hr.symm.trans hr'
  exact hc

theorem cycled_of_step (ht : step s = .next t) : ∃ r, Cycled s t r := by
  obtain ⟨t', r, ht', -, hc⟩ := step_cycled s
  cases ht.symm.trans ht'
  exact ⟨r, hc⟩

/-- `dirty` is only ever set by a cycle (92 D24). -/
theorem Cycled.dirty_of_dirty (h : Cycled s t r) (hs : s.dirty = true) : t.dirty = true := by
  cases h with
  | executed _ _ hc => exact hc.dirty_of_dirty hs
  | _ => exact hs

theorem Cycled.cfg_eq (h : Cycled s t r) : t.cfg = s.cfg := by
  cases h with
  | executed _ _ hc => exact hc.cfg_eq
  | _ => rfl

theorem Cycled.keys_same (h : Cycled s t r) : Part.keys.Same s t := by
  cases h with
  | executed _ _ hc => exact hc.keys_same
  | _ => exact fun _ => rfl

/-- A cycle writes a timer only by the instruction that the timer's part is listed for. -/
theorem Cycled.runs_of_ne {p : Part} (h : Cycled s t r) (hp : p ≠ .pc ∧ p ≠ .status) (hne : ¬ p.Same s t) :
    ∃ i, Runs s i ∧ p ∈ written i := by
  cases h with
  | executed hr _ hc => exact ⟨_, hr, by_contra fun hmem => hne (hc.onlyChanged p hmem)⟩
  | halted | waiting => exact absurd (Part.Same.refl p s) hne
  | unknown => exact absurd (onlyChanged_advance s p (by simp [hp])) hne
  | fetchFault | fault => exact absurd (onlyChanged_setStatus s _ p (by simp [hp])) hne

end

/-! ## Statements about one cycle -/

/-- The first instruction of a byte string is that of its first two bytes. -/
theorem decodeWord_of_decodeBytes {hi lo : Byte} {bytes rest : List Byte} {i : Instr}
    (h : decodeBytes (hi :: lo :: bytes) = .ok (i, rest)) : decodeWord (wordOfBytes hi lo) = .ok i := by
  cases hd : decodeWord (wordOfBytes hi lo) with
  | ok j =>
    rw [decodeBytes_of_decodeWord hd] at h
    cases h
    rfl
  | error e => simp [decodeBytes, hd] at h

/-- Settles O1: the two bytes at `PC` make the word that the cycle fetches. -/
theorem stepRunsTheDecodedInstruction : Obligations.StepRunsTheDecodedInstruction :=
  fun _ _ hs hp hd => step_of_runs ⟨hs, hp, decodeWord_of_decodeBytes hd⟩

/-- Settles O7: a word of no row is rejected, and the cycle passes over it. -/
theorem unknownWordOnlyAdvancesPc : Obligations.UnknownWordOnlyAdvancesPc := by
  intro s hs hp hrow
  have hd := decodeWord_eq_error_iff.mpr hrow
  obtain ⟨t, r, ht, hr, hc⟩ := step_cycled s
  cases hc with
  | unknown => exact ⟨⟨_, ht, rfl, onlyChanged_advance s⟩, hr⟩
  | halted h => cases h.symm.trans hs
  | fetchFault _ h => exact absurd hp h
  | waiting h | executed h | fault h => cases h.decodes.symm.trans hd

/-- A running core whose word is not in range takes the fetch fault, with its record. -/
theorem fetchFaults_of_not_inRange {s : State} (hs : s.status = .running) (hp : ¬ s.pc.toNat + 1 < 4096) :
    FetchFaults s ∧ cycleResult s = .next (.fault s.fetchRecord) := by
  obtain ⟨t, r, ht, hr, hc⟩ := step_cycled s
  cases hc with
  | fetchFault => exact ⟨⟨_, ht, rfl, onlyChanged_setStatus s _⟩, hr⟩
  | halted h => cases h.symm.trans hs
  | unknown _ h => exact absurd h hp
  | waiting h | executed h | fault h => exact absurd h.inRange hp

/-- Settles O8: the lowest address out of range is the larger of `PC` and 4096. -/
theorem fetchOutOfRangeFaults : Obligations.FetchOutOfRangeFaults := by
  intro s hs hp
  obtain ⟨hf, hr⟩ := fetchFaults_of_not_inRange hs (Nat.not_lt.mpr hp)
  have lowest : max s.pc.toNat 4096 = if s.pc.toNat = 4095 then 4096 else s.pc.toNat := by
    split <;> omega
  exact ⟨hf, hr.trans (by rw [State.fetchRecord, lowest])⟩

/-- Settles O9: a halted core has one way to cycle. -/
theorem haltedCycleChangesNothing : Obligations.HaltedCycleChangesNothing := by
  intro s f hs
  simp [step, cycle, cycleResult, hs]

/-- Settles O10: case by case, each result goes with the state change of its row. -/
theorem cycleResultSaysWhatChanged : Obligations.CycleResultSaysWhatChanged := by
  intro s t r ht hr
  cases cycled_of_step_of_result ht hr with
  | halted hs => exact ⟨hs, rfl⟩
  | fetchFault hs hp => exact ⟨hs, rfl, rfl, (if_neg hp).symm⟩
  | unknown hs hp hd => exact ⟨hs, rfl, rfl, hp, hd, rfl, onlyChanged_advance s⟩
  | waiting h hup => exact ⟨h.running, rfl, hup, h.inRange, _, h.decodes⟩
  | executed h he hc => exact ⟨h.running, hc.status_eq.trans h.running, h.inRange, _, h.decodes, he⟩
  | fault h =>
    refine ⟨h.running, rfl, rfl, ?_⟩
    rw [if_pos h.inRange, (encode_of_decodeWord h.decodes).2]

/-- Settles O11: no step stops: every way a cycle can go answers a state and a result. -/
theorem everyStepAnswersNext : Obligations.EveryStepAnswersNext := by
  intro s
  obtain ⟨t, r, ht, hr, -⟩ := step_cycled s
  exact ⟨⟨t, ht⟩, r, hr⟩

/-- Settles O12: the only records are those of the fetch fault and of the faults of the instructions. -/
theorem registerFaultIsNeverRaised : Obligations.RegisterFaultIsNeverRaised := by
  intro s t f hs ht htf
  obtain ⟨r, hc⟩ := cycled_of_step ht
  cases hc with
  | halted h => cases h.symm.trans hs
  | fetchFault =>
    cases htf
    exact ⟨by simp [State.fetchRecord], fun _ => Nat.le_max_right _ _⟩
  | unknown | waiting => cases hs.symm.trans htf
  | executed _ _ hc => cases hs.symm.trans (hc.status_eq.symm.trans htf)
  | fault _ hf =>
    cases htf
    cases hf with
    | memory _ ha => exact ⟨by simp, fun _ => ha⟩
    | overflow | underflow | key => simp

/-- Settles O51: a cycle writes the listed parts of one instruction, `PC` or `status`, and nothing else. -/
theorem cyclesNeverMoveTimersKeysOrParameters : Obligations.CyclesNeverMoveTimersKeysOrParameters := by
  intro s t ht
  obtain ⟨r, hc⟩ := cycled_of_step ht
  refine ⟨hc.keys_same, hc.cfg_eq, fun hdt => ?_, fun hst => ?_, hc.dirty_of_dirty⟩
  · obtain ⟨i, hr, hi⟩ := hc.runs_of_ne (p := .dt) (by simp) hdt
    obtain ⟨x, rfl⟩ := dt_mem_written hi
    exact ⟨x, hr.decodes⟩
  · obtain ⟨i, hr, hi⟩ := hc.runs_of_ne (p := .st) (by simp) hst
    obtain ⟨x, rfl⟩ := st_mem_written hi
    exact ⟨x, hr.decodes⟩

end Sys2Proof.Machine
end

section
/-! PROOFS. The invariant of every run (40_cycle.md R129; 60_exceptions.md R309, R310): each way a cycle can go
keeps it, and so does each host operation. -/

namespace Sys2Proof.Machine

/-! ## Updates that keep the invariant -/

/-- The invariant reads nothing but the parameters, memory, `PC`, the stack, `SP` and `status`. -/
theorem Inv.of_fields {s t : State} (h : Inv s) (cfg : t.cfg = s.cfg) (mem : t.mem = s.mem) (pc : t.pc = s.pc)
    (stack : t.stack = s.stack) (sp : t.sp = s.sp) (status : t.status = s.status) : Inv t where
  memory := by rw [cfg, mem]; exact h.memory
  pc := pc ▸ h.pc
  stack j := by rw [State.stackAt, stack]; exact h.stack j
  status := by
    have hs := h.status
    rw [status]
    cases hst : s.status with
    | running => trivial
    | halted f =>
      rw [hst] at hs
      simpa only [Status.Legal, FaultRecord.Legal, pc, sp] using hs

/-- A change of memory to a canonical one keeps the invariant. -/
theorem Inv.setMem {s : State} (h : Inv s) {m : Memory} (hm : Memory.wf s.cfg m = true) : Inv (s.setMem m) where
  memory := hm
  pc := h.pc
  stack := h.stack
  status := h.status

/-- The invariant of a running core asks nothing of the record. -/
theorem Inv.of_running {t : State} (hs : t.status = .running) (memory : Memory.wf t.cfg t.mem = true)
    (pc : t.pc.toNat ≤ 0x10FE) (stack : ∀ j, (t.stackAt j).toNat ≤ 0x1000) : Inv t :=
  ⟨memory, pc, stack, by rw [hs]; trivial⟩

/-- A fault keeps the invariant when its record is legal. -/
theorem Inv.setStatus_halted {s : State} (h : Inv s) {f : FaultRecord} (hf : f.Legal s) :
    Inv (s.setStatus (.halted f)) where
  memory := h.memory
  pc := h.pc
  stack := h.stack
  status := hf

/-! ## `PC` arithmetic (R129) -/

section

variable {s : State}

theorem pc_add_two (h : s.pc.toNat + 1 < 4096) : (s.pc + 2#16).toNat = s.pc.toNat + 2 := by
  simp only [BitVec.toNat_add, BitVec.toNat_ofNat]
  omega

theorem pc_add_four (h : s.pc.toNat + 1 < 4096) : (s.pc + 4#16).toNat = s.pc.toNat + 4 := by
  simp only [BitVec.toNat_add, BitVec.toNat_ofNat]
  omega

theorem skipIf_pc_le (h : s.pc.toNat + 1 < 4096) (c : Bool) : (s.skipIf c).pc.toNat ≤ 0x10FE := by
  rw [State.skipIf_pc]
  split
  · rw [pc_add_four h]; omega
  · rw [pc_add_two h]; omega

theorem advance_pc_le (h : s.pc.toNat + 1 < 4096) : s.advance.pc.toNat ≤ 0x10FE :=
  skipIf_pc_le h false

/-- `V[0] + nnn` is exact (R143). -/
theorem offsetTarget_toNat {nnn : Word} (h : nnn.toNat < 0x1000) :
    (s.offsetTarget nnn).toNat = (s.reg 0).toNat + nnn.toNat := by
  have := (s.reg 0).isLt
  rw [State.offsetTarget, BitVec.toNat_add, BitVec.toNat_setWidth]
  omega

/-- A push writes one entry (R39). -/
theorem State.stackAt_push (w : Word) (h : s.sp.val < 16) (j : Fin 16) :
    (s.push w h).stackAt j = if j.val = s.sp.val then w else s.stackAt j := by
  rw [State.stackAt, State.push_stack, State.stackAt, Vector.getElem_set]
  simp only [eq_comm]

/-! ## The cycle keeps the invariant -/

/-- Advancing over a word in range keeps the invariant of a running core. -/
theorem Inv.advance (h : Inv s) (hs : s.status = .running) (hp : s.pc.toNat + 1 < 4096) : Inv s.advance :=
  .of_running hs h.memory (advance_pc_le hp) h.stack

/-- A completed instruction keeps the invariant: only jumps, skips, calls and returns move `PC` otherwise than
to the next word, and each of their targets is in its bounds. -/
theorem Completes.inv {i : Instr} {t : State} (hc : Completes s i t) (h : Inv s) (hr : Runs s i) : Inv t := by
  have hs := hr.running
  have hp := hr.inRange
  have hwf := (encode_of_decodeWord hr.decodes).1
  cases hc with
  | jp nnn =>
    have fits : nnn.toNat < 0x1000 := of_decide_eq_true hwf
    exact .of_running hs h.memory (Nat.le_of_lt (by simp; omega)) h.stack
  | jpV0 nnn =>
    have fits : nnn.toNat < 0x1000 := of_decide_eq_true hwf
    have := (s.reg 0).isLt
    exact .of_running hs h.memory (by rw [State.setPc_pc, offsetTarget_toNat fits]; omega) h.stack
  | call nnn hsp =>
    have fits : nnn.toNat < 0x1000 := of_decide_eq_true hwf
    refine .of_running hs h.memory (by simp; omega) fun j => ?_
    refine (congrArg BitVec.toNat (State.stackAt_push _ hsp j)).trans_le ?_
    split
    · rw [pc_add_two hp]; omega
    · exact h.stack j
  | ret hsp =>
    refine .of_running hs h.memory ?_ h.stack
    exact (h.stack ⟨s.sp.val - 1, by omega⟩).trans (by decide)
  | skip c => exact .of_running hs h.memory (skipIf_pc_le hp c) h.stack
  | wait => exact h
  | ldBVx x m wf => exact (h.setMem (wf h.memory)).advance hs hp
  | ldMemVx x m w wf => exact ((h.setMem (wf h.memory)).advance hs hp).of_fields rfl rfl rfl rfl rfl rfl
  | cls | result | resultFlag | rnd | index | addIVx | ldDtVx | ldStVx | drw | ldVxMem =>
    exact (h.advance hs hp).of_fields rfl rfl rfl rfl rfl rfl

theorem opField_encode_call (nnn : Word) : opField (encode (.call nnn)) = 0x2#4 := opField_wordNNN 2 nnn

/-- The record of an instruction's fault is legal (R310). -/
theorem Faults.legal {i : Instr} {name : Fault} {info : Nat} (hf : Faults s i name info) :
    FaultRecord.Legal ⟨name, s.pc, some (encode i), info⟩ s := by
  refine ⟨rfl, ?_⟩
  cases hf with
  | memory _ hlo hhi => exact ⟨hlo, hhi⟩
  | overflow nnn hsp => exact ⟨rfl, hsp, congrArg some (opField_encode_call nnn)⟩
  | underflow hsp => exact ⟨rfl, hsp, rfl⟩
  | key hi hx =>
    refine ⟨hx, (s.reg _).isLt, ?_⟩
    rcases hi with rfl | rfl <;> exact congrArg some (opField_wordXNN 14 _ _)

theorem fetchRecord_legal (h : Inv s) : s.fetchRecord.Legal s :=
  ⟨rfl, Nat.le_max_right _ _, max_le (h.pc.trans (by decide)) (by decide)⟩

theorem Cycled.inv {t : State} {r : CycleResult} (hc : Cycled s t r) (h : Inv s) : Inv t := by
  cases hc with
  | halted | waiting => exact h
  | fetchFault => exact h.setStatus_halted (fetchRecord_legal h)
  | unknown hs hp => exact h.advance hs hp
  | executed hr _ hc => exact hc.inv h hr
  | fault _ hf => exact h.setStatus_halted hf.legal

end

/-- Settles O57: each way a cycle can go keeps the invariant. -/
theorem stepKeepsTheInvariant : Obligations.StepKeepsTheInvariant := by
  intro s t h ht
  obtain ⟨r, hc⟩ := cycled_of_step ht
  exact hc.inv h

/-! ## Host operations keep the invariant -/

theorem inv_boot (c : Config) : Inv (State.boot c) :=
  .of_running rfl (Memory.wf_reset c) (by simp [State.boot]) fun j => by simp [State.stackAt, State.boot]

/-- Settles O56: the boot state lists no byte, starts at 0x200 and has a stack of zeros. -/
theorem resetStateMeetsTheInvariant : Obligations.ResetStateMeetsTheInvariant :=
  ⟨inv_boot, inv_boot defaultConfig⟩

/-- Settles O58: a cycle keeps the invariant, `LoadProgram` keeps memory canonical, and no other operation but
`Reset` writes a field that the invariant reads. -/
theorem hostOperationsKeepTheInvariant : Obligations.HostOperationsKeepTheInvariant := by
  intro o s t r h hp
  rcases perform_cases hp with ⟨-, rfl⟩ | ⟨rnd, u, c, -, hu, hc, rfl, -⟩ | ⟨-, rfl⟩ | ⟨-, rfl⟩ |
    ⟨bytes, m, -, rfl, hm⟩ | ⟨k, rfl, -⟩ | ⟨rfl, -⟩
  · exact ⟨(inv_boot s.cfg).of_fields rfl rfl rfl rfl rfl rfl, rfl⟩
  · have hstart : Inv (s.setRndIn (some rnd)) := h.of_fields rfl rfl rfl rfl rfl rfl
    have hcyc := cycled_of_step_of_result hu hc
    exact ⟨(hcyc.inv hstart).of_fields rfl rfl rfl rfl rfl rfl, hcyc.cfg_eq⟩
  · exact ⟨h.of_fields rfl rfl rfl rfl rfl rfl, rfl⟩
  · exact ⟨h.of_fields rfl rfl rfl rfl rfl rfl, rfl⟩
  · exact ⟨h.setMem (hm h.memory), rfl⟩
  · exact ⟨h.of_fields rfl rfl rfl rfl rfl rfl, rfl⟩
  · exact ⟨h, rfl⟩

/-- Settles O59: the boot state meets the invariant, and every operation keeps it. -/
theorem reachableStatesMeetTheInvariant : Obligations.ReachableStatesMeetTheInvariant := by
  intro c s hr
  induction hr with
  | boot => exact ⟨inv_boot c, rfl⟩
  | op _ hp ih =>
    obtain ⟨hinv, hcfg⟩ := ih
    obtain ⟨hinv', hcfg'⟩ := hostOperationsKeepTheInvariant _ _ _ _ hinv hp
    exact ⟨hinv', hcfg'.trans hcfg⟩

end Sys2Proof.Machine
end

section
/-! PROOFS. The host operations (60_exceptions.md R317 to R327; 70_reset_and_hazards.md R400 to R404): what each
returns and changes, and what every run of them keeps. -/

namespace Sys2Proof.Machine

/-! ## Operations that read, or write one piece -/

theorem tickTimer_toNat (b : Byte) : (tickTimer b).toNat = b.toNat - 1 := by
  rw [tickTimer]
  split
  · rename_i h
    rw [h]
    rfl
  · rename_i h
    have : b.toNat ≠ 0 := fun e => h (BitVec.eq_of_toNat_eq e)
    have := b.isLt
    simp only [BitVec.toNat_sub, BitVec.toNat_ofNat]
    omega

theorem eq_one_iff_toNat (b : Byte) : b = 1#8 ↔ b.toNat = 1 := BitVec.toNat_inj.symm

theorem perform_tick (s : State) :
    perform .tick s =
      .next ((s.setDt (tickTimer s.dt)).setSt (tickTimer s.st), .cue (decide (s.st.toNat = 1))) := by
  simp only [perform, State.tick, eq_one_iff_toNat]

/-- Settles O42: a tick is one write to each timer. -/
theorem tickDecrementsNonzeroTimers : Obligations.TickDecrementsNonzeroTimers :=
  fun s => ⟨_, perform_tick s, tickTimer_toNat s.dt, tickTimer_toNat s.st, .of_fields⟩

/-- Settles O43: the keypad is replaced whole. -/
theorem setKeysReplacesTheKeypad : Obligations.SetKeysReplacesTheKeypad :=
  fun v s => ⟨s.setKeys v, rfl, fun _ => rfl, .of_fields⟩

/-- Settles O44: one key is written, or nothing. -/
theorem setKeyChangesOneKeyOrReportsTheIndex : Obligations.SetKeyChangesOneKeyOrReportsTheIndex := by
  intro index b s
  constructor
  · intro h
    refine ⟨s.setKeys (s.keys.set index b), by simp [perform, State.pressKey, h], fun k => ?_, .of_fields⟩
    rw [State.key, State.setKeys_keys, State.key, Vector.getElem_set]
    simp only [eq_comm]
  · intro h
    simp [perform, State.pressKey, Nat.not_lt.mpr h]

/-- Settles O47: the observers answer the state they were given; `AckDisplay` writes `dirty`. -/
theorem observersChangeNothing : Obligations.ObserversChangeNothing := by
  intro s
  exact ⟨⟨s.fb, s.dirty, rfl, rfl, fun _ _ => rfl⟩,
    ⟨s.dumpRecord, rfl, fun _ => rfl, rfl, rfl, fun _ => rfl, rfl, rfl, rfl, rfl⟩,
    s.setDirty false, rfl, rfl, .of_fields⟩

/-! ## Reset (R48, R400) -/

theorem reg_resetAll (s : State) (r : Reg) : s.resetAll.reg r = 0#8 := by
  simp [State.reg, State.resetAll, State.boot]

theorem stackAt_resetAll (s : State) (j : Fin 16) : s.resetAll.stackAt j = 0#16 := by
  simp [State.stackAt, State.resetAll, State.boot]

/-- After a reset every byte reads as its reset contents. -/
theorem byteAt_resetAll (s : State) (a : Nat) : s.resetAll.byteAt a = resetByte s.cfg a := rfl

/-- Settles O46: every piece of the boot state is a constant, and memory lists no byte. -/
theorem resetRestoresEveryPiece : Obligations.ResetRestoresEveryPiece := by
  intro s
  refine ⟨s.resetAll, rfl, reg_resetAll s, rfl, rfl, stackAt_resetAll s, rfl, rfl, rfl, fun a => ?_,
    fun a ha => ?_, Framebuffer.pixel_dark, fun k => ?_, rfl, rfl, rfl⟩
  · rw [byteAt_resetAll, resetByte, dif_pos a.isLt]
  · rw [byteAt_resetAll, resetByte, dif_neg (Nat.not_lt.mpr ha)]
  · simp [State.key, State.resetAll, State.boot]

/-! ## Runs of byte writes (R70) -/

/-- The `j`-th byte after a run of writes that stays in range. -/
theorem byteAt_setBytes_add {s : State} {base j : Nat} {bs : List Byte} (h : base + bs.length ≤ 4096)
    (hj : j < bs.length) : (s.setBytes base bs).byteAt (base + j) = bs.getD j 0#8 := by
  rw [State.byteAt_setBytes _ _ _ h, if_pos (by omega), Nat.add_sub_cancel_left]

/-- A byte outside a run of writes that stays in range. -/
theorem byteAt_setBytes_of_notMem {s : State} {base a : Nat} {bs : List Byte} (h : base + bs.length ≤ 4096)
    (ha : ¬ (base ≤ a ∧ a < base + bs.length)) : (s.setBytes base bs).byteAt a = s.byteAt a := by
  rw [State.byteAt_setBytes _ _ _ h, if_neg ha]

theorem pc_setBytes (s : State) (base : Nat) (bs : List Byte) : (s.setBytes base bs).pc = s.pc := by
  obtain ⟨m, hm, -⟩ := s.setBytes_fields base bs
  rw [hm]
  rfl


theorem onlyChanged_setBytes (s : State) (base : Nat) (bs : List Byte) :
    OnlyChanged [.mem] s (s.setBytes base bs) := by
  obtain ⟨m, hm, -⟩ := s.setBytes_fields base bs
  exact hm ▸ .of_fields

/-! ## Loading a program (R402 to R404) -/

theorem perform_loadProgram {bytes : List Byte} (s : State) (h : bytes.length ≤ 0xE00) :
    perform (.loadProgram bytes) s = .next (s.setBytes 0x200 bytes, .ok) := by
  simp [perform, State.loadProgram, Nat.not_lt.mpr h]

/-- Settles O45: at most 0xE00 bytes from 0x200 on end at 0xFFF, so the run of writes stays in range. -/
theorem loadProgramCopiesOrRejects : Obligations.LoadProgramCopiesOrRejects := by
  intro bytes s
  refine ⟨fun h => ?_, fun h => by simp [perform, State.loadProgram, h]⟩
  have fits : 0x200 + bytes.length ≤ 4096 := by omega
  exact ⟨s.setBytes 0x200 bytes, perform_loadProgram s h, fun j hj => byteAt_setBytes_add fits hj,
    fun a ha => byteAt_setBytes_of_notMem fits ha, onlyChanged_setBytes s 0x200 bytes⟩

/-- Settles O48: the two first bytes of the ROM stand at 0x200, where `PC` is after a reset. -/
theorem loadedProgramStartsAtItsFirstWord : Obligations.LoadedProgramStartsAtItsFirstWord := by
  intro s t u hi lo rest i hlen hd ht hu
  have hrom : (hi :: lo :: rest).length ≤ 0xE00 := Nat.add_le_add_right hlen 2
  cases ht
  cases (perform_loadProgram s.resetAll hrom).symm.trans hu
  have byte (j : Nat) (hj : j < (hi :: lo :: rest).length) :=
    byteAt_setBytes_add (s := s.resetAll) (base := 0x200) (by omega) hj
  obtain ⟨m, hm, -⟩ := s.resetAll.setBytes_fields 0x200 (hi :: lo :: rest)
  have hpc : (s.resetAll.setBytes 0x200 (hi :: lo :: rest)).pc.toNat = 0x200 := by rw [pc_setBytes]; rfl
  have hruns : Runs (s.resetAll.setBytes 0x200 (hi :: lo :: rest)) i := by
    refine ⟨by rw [hm]; rfl, by rw [hpc]; decide, ?_⟩
    rw [fetchedWord, hpc, byte 0 (by simp), byte 1 (by simp)]
    exact hd
  refine ⟨step_of_runs hruns, ?_⟩
  rw [hm]
  exact ⟨rfl, reg_resetAll s, rfl, rfl, rfl, rfl, stackAt_resetAll s⟩

/-! ## Placing one word (log entry 9) -/

theorem fetchSlot_inRange (s : State) : (fetchSlot s).toNat + 1 < 4096 := by
  rw [fetchSlot]
  split
  · assumption
  · decide

/-- The placed word is what the next fetch reads. -/
theorem fetchedWord_placeWord (s : State) (w : Word) : fetchedWord (placeWord s w) = w := by
  have hr := fetchSlot_inRange s
  have hpc : (placeWord s w).pc = fetchSlot s := rfl
  rw [fetchedWord, hpc, placeWord, State.byteAt_setByte, if_neg (by omega), State.byteAt_setByte,
    if_pos ⟨rfl, by omega⟩, State.byteAt_setByte, if_pos ⟨rfl, hr⟩, wordOfBytes_hiByte_loByte]

theorem decodeWord_of_decodeTableWord {nbits w : Nat} {i : Instr} (h : decodeTableWord nbits w = some i) :
    decodeWord (tableWord nbits w) = .ok i := by
  rw [decodeTableWord] at h
  split at h
  · rename_i j rest hd
    cases h
    rw [← wordOfBytes_hiByte_loByte (tableWord nbits w)]
    exact decodeWord_of_decodeBytes hd
  · cases h

/-- Settles O49: the placed word is in range and is what the fetch reads. -/
theorem fetchWordIsTheNextInstruction : Obligations.FetchWordIsTheNextInstruction := by
  intro s w i _ hd
  refine step_of_runs ⟨rfl, fetchSlot_inRange s, ?_⟩
  rw [State.withFetchWord, fetchedWord_placeWord]
  exact decodeWord_of_decodeTableWord hd

/-! ## Runs of host operations -/

theorem perform_cycle {rnd : Byte} {s t : State} {r : CycleResult}
    (ht : step (s.setRndIn (some rnd)) = .next t) (hr : cycleResult (s.setRndIn (some rnd)) = .next r) :
    perform (.cycle rnd) s = .next (t.setRndIn none, .cycle r) := by
  simp only [perform, State.cycleWith, ht, hr]

/-- Every host operation answers a state and a result (R332). -/
theorem perform_next (o : HostOp) (s : State) : ∃ t r, perform o s = .next (t, r) := by
  cases o with
  | cycle rnd =>
    obtain ⟨t, r, ht, hr, -⟩ := step_cycled (s.setRndIn (some rnd))
    exact ⟨_, _, perform_cycle ht hr⟩
  | _ => exact ⟨_, _, rfl⟩

theorem performAll_cons {o : HostOp} {ops : List HostOp} {s t u : State} {r : HostResult} {rs : List HostResult}
    (h : perform o s = .next (t, r)) (hs : performAll ops t = .next (u, rs)) :
    performAll (o :: ops) s = .next (u, r :: rs) := by
  simp only [performAll, h, hs]

/-- Settles O55: by induction on the operations, each of which answers. -/
theorem everyHostRunCompletes : Obligations.EveryHostRunCompletes := by
  intro ops
  induction ops with
  | nil => exact fun s => ⟨s, [], rfl, rfl⟩
  | cons o ops ih =>
    intro s
    obtain ⟨t, r, h⟩ := perform_next o s
    obtain ⟨u, rs, hs, hlen⟩ := ih t
    exact ⟨u, r :: rs, performAll_cons h hs, congrArg Nat.succ hlen⟩

/-- Settles O53: a halted cycle answers its own state, and no other operation but `Reset` writes a piece named. -/
theorem onlyResetLeavesHalted : Obligations.OnlyResetLeavesHalted := by
  intro o s t r f hs ho hp
  have kept {u : State} (hst : u.status = s.status) (hpc : u.pc = s.pc) (hi : u.i = s.i) (hsp : u.sp = s.sp)
      (hv : u.v = s.v) (hk : u.stack = s.stack) : u.status = .halted f ∧ u.pc = s.pc ∧ u.i = s.i ∧
        u.sp = s.sp ∧ Part.v.Same s u ∧ Part.stack.Same s u :=
    ⟨hst.trans hs, hpc, hi, hsp, State.reg_congr hv, fun j => by rw [State.stackAt, hk, State.stackAt]⟩
  rcases perform_cases hp with ⟨h, -⟩ | ⟨rnd, u, c, -, hu, -, rfl, -⟩ | ⟨-, rfl⟩ | ⟨-, rfl⟩ |
    ⟨bytes, m, -, rfl, -⟩ | ⟨k, rfl, -⟩ | ⟨rfl, -⟩
  · exact absurd h ho
  · cases hu.symm.trans (haltedCycleChangesNothing (s.setRndIn (some rnd)) f hs).1
    exact kept rfl rfl rfl rfl rfl rfl
  all_goals exact kept rfl rfl rfl rfl rfl rfl

/-- Settles O54: a cycle never clears `dirty`, and `Reset` sets it. -/
theorem dirtyIsClearedOnlyByAck : Obligations.DirtyIsClearedOnlyByAck := by
  intro o s t r hs ho hp
  rcases perform_cases hp with ⟨-, rfl⟩ | ⟨rnd, u, c, -, hu, hc, rfl, -⟩ | ⟨-, rfl⟩ | ⟨h, -⟩ |
    ⟨bytes, m, -, rfl, -⟩ | ⟨k, rfl, -⟩ | ⟨rfl, -⟩
  · rfl
  · exact (cycled_of_step_of_result hu hc).dirty_of_dirty hs
  · exact hs
  · exact absurd h ho
  all_goals exact hs

end Sys2Proof.Machine
end

section
/-! PROOFS. No step reads `ST` or `dirty` (10_state.md section 4 and section 6): every instruction answers the same
from two states that differ only there. -/

namespace Sys2Proof.Machine

/-- `s` with other values in `ST` and `dirty`. -/
def State.touch (s : State) (b : Byte) (d : Bool) : State := (s.setSt b).setDirty d

theorem onlyChanged_touch (s : State) (b : Byte) (d : Bool) : OnlyChanged [.st, .dirty] s (s.touch b d) := by
  dsimp only [State.touch]
  exact .of_fields

/-- Two answers are next states that differ in `ST` and `dirty` alone. -/
def Agree (o o' : Result) : Prop := ∃ t b d, o = .next t ∧ o' = .next (t.touch b d)

theorem Agree.next (t : State) (b : Byte) (d : Bool) : Agree (.next t) (.next (t.touch b d)) :=
  ⟨t, b, d, rfl, rfl⟩

theorem Agree.dite {c : Prop} [Decidable c] {x x' : c → Result} {y y' : ¬ c → Result}
    (hx : ∀ h, Agree (x h) (x' h)) (hy : ∀ h, Agree (y h) (y' h)) : Agree (dite c x y) (dite c x' y') := by
  by_cases h : c
  · simpa only [dif_pos h] using hx h
  · simpa only [dif_neg h] using hy h

section

variable (s : State) (b : Byte) (d : Bool)

theorem status_touch : (s.touch b d).status = s.status := rfl

theorem pc_touch : (s.touch b d).pc = s.pc := rfl

theorem fetch_touch : (s.touch b d).fetch = s.fetch := rfl

theorem agree_withRange {i : Instr} {k k' : Result} (base n : Nat) (h : Agree k k') :
    Agree (withRange base n i s k) (withRange base n i (s.touch b d) k') := by
  rw [withRange_eq, withRange_eq]
  split
  · exact h
  · exact .next _ b d

theorem agree_withKey {i : Instr} {k k' : Bool → Result} (x : Reg) (h : ∀ down, Agree (k down) (k' down)) :
    Agree (withKey x i s k) (withKey x i (s.touch b d) k') :=
  .dite (c := (s.reg x).toNat < 16) (fun _ => h _) fun _ => .next _ b d

/-- A run of byte writes reads the parameters and memory alone. -/
theorem setBytes_touch (base : Nat) (bs : List Byte) :
    (s.touch b d).setBytes base bs = (s.setBytes base bs).touch b d := by
  induction bs generalizing s base with
  | nil => rfl
  | cons c bs ih => exact ih (s.setByte base c) (base + 1)

theorem loadedRegs_touch (base n : Nat) : (s.touch b d).loadedRegs base n = s.loadedRegs base n := by
  induction n with
  | zero => rfl
  | succ n ih =>
    rw [State.loadedRegs, State.loadedRegs, ih]
    rfl

/-- No instruction reads `ST` or `dirty`. -/
theorem exec_touch (i : Instr) : Agree (exec i s) (exec i (s.touch b d)) := by
  cases i with
  | cls => exact .next _ b true
  | ldStVx x => exact .next _ (s.reg x) d
  | ret => exact .dite (c := s.sp.val = 0) (fun _ => .next _ b d) fun _ => .next _ b d
  | call nnn => exact .dite (c := s.sp.val < 16) (fun _ => .next _ b d) fun _ => .next _ b d
  | ldVxK x =>
    have hk : (s.touch b d).lowestKeyDown = s.lowestKeyDown := rfl
    simp only [exec, execLdVxK, hk]
    split
    · exact .next _ b d
    · exact .next _ b d
  | skp x => exact agree_withKey s b d x fun _ => .next _ b d
  | sknp x =>
    rw [exec_sknp, exec_sknp]
    exact agree_withKey s b d x fun _ => .next _ b d
  | drw x y n => exact agree_withRange s b d _ n (.next _ b true)
  | ldBVx x =>
    refine agree_withRange s b d _ 3 ?_
    rw [setBytes_touch]
    exact .next _ b d
  | ldMemVx x =>
    refine agree_withRange s b d _ _ ?_
    rw [setBytes_touch]
    exact .next _ b d
  | ldVxMem x =>
    refine agree_withRange s b d _ _ ?_
    rw [loadedRegs_touch]
    exact .next _ b d
  | _ => exact .next _ b d

/-- A step agrees too, and its result is the same: the fetch and the decoder see no difference. -/
theorem step_touch : Agree (step s) (step (s.touch b d)) ∧ cycleResult (s.touch b d) = cycleResult s := by
  simp only [step, cycle, cycleResult, status_touch, fetch_touch, pc_touch]
  cases s.status with
  | halted f => exact ⟨.next s b d, rfl⟩
  | running =>
    cases s.fetch with
    | error a => exact ⟨.next _ b d, rfl⟩
    | ok w =>
      cases hd : decodeWord w with
      | error e => simp only [hd]; exact ⟨.next _ b d, trivial⟩
      | ok i =>
        obtain ⟨t, c, e, ht, hu⟩ := exec_touch s b d i
        simp only [hd, ht, hu]
        exact ⟨.next t c e, rfl⟩

end

/-- Settles O52: the step of the touched state is the touched step. -/
theorem noStepReadsSoundTimerOrDirty : Obligations.NoStepReadsSoundTimerOrDirty := by
  intro s t b d ht
  obtain ⟨⟨t', c, e, ht', hu⟩, hr⟩ := step_touch s b d
  cases ht.symm.trans ht'
  exact ⟨⟨_, hu, onlyChanged_touch t c e⟩, hr⟩

end Sys2Proof.Machine
end

section
/-! PROOFS. Control flow, arithmetic, the address register and the keypad (41_flow.md to 45_timers_keys.md): each
word decodes to its instruction, and the instruction completes as its rule says or takes its fault. -/

namespace Sys2Proof.Machine

/-! ## Words written bit by bit are the encoder's words (R92, R95) -/

theorem nibbles_toNat (a b c d : BitVec 4) :
    (nibbles a b c d).toNat = a.toNat * 0x1000 + b.toNat * 0x100 + c.toNat * 0x10 + d.toNat := by
  unfold nibbles
  rw [BitVec.toNat_append, BitVec.toNat_append, BitVec.toNat_append, ← Nat.shiftLeft_add_eq_or_of_lt d.isLt,
    ← Nat.shiftLeft_add_eq_or_of_lt c.isLt, ← Nat.shiftLeft_add_eq_or_of_lt b.isLt]
  simp only [Nat.shiftLeft_eq]
  omega

theorem wordXYN_regOf (op x y n : BitVec 4) :
    wordXYN op.toNat (regOf x) (regOf y) n.toNat = nibbles op x y n := by
  apply BitVec.eq_of_toNat_eq
  rw [wordXYN_toNat op.isLt, nibbles_toNat, regOf_val, regOf_val, Nat.mod_eq_of_lt n.isLt]

theorem wordXNN_regOf (op x : BitVec 4) (nn : Byte) :
    wordXNN op.toNat (regOf x) nn = nibblesByte op x nn := by
  apply BitVec.eq_of_toNat_eq
  rw [wordXNN_toNat op.isLt, nibblesByte_toNat, regOf_val]

theorem wordNNN_addrOf (op : BitVec 4) (nnn : BitVec 12) :
    wordNNN op.toNat (addrOf nnn) = nibbleAddr op nnn := by
  apply BitVec.eq_of_toNat_eq
  rw [wordNNN_toNat op.isLt, nibbleAddr_toNat, addrOf_toNat, Nat.mod_eq_of_lt nnn.isLt]

/-! ## Decoding by format -/

section

variable {i : Instr} {op x y n : BitVec 4} {nn : Byte} {nnn : BitVec 12}

/-- A word `op x y n` decodes to the instruction that encodes to it. -/
theorem decodeWord_nibbles (hwf : i.wf = true) (h : encode i = wordXYN op.toNat (regOf x) (regOf y) n.toNat) :
    decodeWord (nibbles op x y n) = .ok i :=
  decodeWord_eq_ok_of_encode_eq hwf (h.trans (wordXYN_regOf op x y n))

theorem decodeWord_nibblesByte (hwf : i.wf = true) (h : encode i = wordXNN op.toNat (regOf x) nn) :
    decodeWord (nibblesByte op x nn) = .ok i :=
  decodeWord_eq_ok_of_encode_eq hwf (h.trans (wordXNN_regOf op x nn))

theorem decodeWord_nibbleAddr (hwf : i.wf = true) (h : encode i = wordNNN op.toNat (addrOf nnn)) :
    decodeWord (nibbleAddr op nnn) = .ok i :=
  decodeWord_eq_ok_of_encode_eq hwf (h.trans (wordNNN_addrOf op nnn))

end

/-! ## Completing and faulting -/

section

variable {i : Instr} {s : State}

theorem goesTo_setPc {w : Word} (h : exec i s = .next (s.setPc w)) : GoesTo i s w :=
  ⟨_, h, rfl, onlyChanged_setPc s w⟩

theorem goesTo_skipIf {c : Bool} {w : Word} (h : exec i s = .next (s.skipIf c))
    (hw : (if c then s.pc + 4#16 else s.pc + 2#16) = w) : GoesTo i s w :=
  hw ▸ goesTo_setPc h

theorem takesFault_of_exec {w : Word} {name : Fault} {info : Nat} (hw : encode i = w)
    (h : exec i s = .next (s.faulted i name info)) : TakesFault i w s name info :=
  hw ▸ ⟨_, h, rfl, onlyChanged_faulted s i name info⟩

/-- A jump past the last word faults at the next fetch, not before (92 D38). -/
theorem fetchFaults_setPc {w : Word} (hs : s.status = .running) (hw : 0xFFF ≤ w.toNat) :
    FetchFaults (s.setPc w) :=
  (fetchFaults_of_not_inRange (s := s.setPc w) hs (by rw [State.setPc_pc]; omega)).1

/-- An instruction whose meaning is `writeRegFlag x b f` sets `V[x]` to `b` and then VF to `f`. -/
theorem setsRegAndFlag_of_exec_eq {x : Reg} {b g : Byte} {f : Bool} (h : exec i s = writeRegFlag x b f s)
    (hg : flagByte f = g) : SetsRegAndFlag i s x b g := by
  refine ⟨_, h, fun r => ?_, rfl, .of_fields⟩
  rw [← hg]
  exact ((s.setReg x b).reg_setFlag f r).trans (by rw [State.reg_setReg])

end

/-! ## Control flow (41_flow.md) -/

/-- Settles O13: one write to `PC`, which the next fetch checks. -/
theorem jumpGoesToItsAddress : Obligations.JumpGoesToItsAddress := by
  intro nnn s
  refine ⟨decodeWord_nibbleAddr (fits12_addrOf nnn) rfl, goesTo_setPc rfl, fun hs h => ?_⟩
  exact fetchFaults_setPc hs (h.trans_eq (addrOf_toNat nnn).symm)

/-- Settles O14: a byte and a 12-bit address add up without wrapping. -/
theorem offsetJumpAddsV0 : Obligations.OffsetJumpAddsV0 := by
  intro nnn s
  have fits : (addrOf nnn).toNat < 0x1000 := (addrOf_toNat nnn).trans_lt nnn.isLt
  have sum : (s.offsetTarget (addrOf nnn)).toNat = (s.reg 0).toNat + nnn.toNat := by
    rw [offsetTarget_toNat fits, addrOf_toNat]
  refine ⟨decodeWord_nibbleAddr (fits12_addrOf nnn) rfl, s.setPc (s.offsetTarget (addrOf nnn)), rfl, sum,
    sum.trans_le (by omega), onlyChanged_setPc s _, fun hs h => fetchFaults_setPc hs h⟩

/-- Settles O15: a call pushes and jumps while there is room, and faults on a full stack. -/
theorem callPushesThenJumpsOrOverflows : Obligations.CallPushesThenJumpsOrOverflows := by
  intro nnn s
  refine ⟨decodeWord_nibbleAddr (fits12_addrOf nnn) rfl, fun h => ?_, fun h => ?_⟩
  · exact ⟨_, exec_call_of_lt _ h, State.stackAt_push _ h, rfl, rfl, .of_fields⟩
  · exact takesFault_of_exec (wordNNN_addrOf 0x2#4 nnn) (exec_call_of_full _ h)

/-- Settles O16: a return pops while there is an entry, and faults on an empty stack. -/
theorem returnPopsOrUnderflows : Obligations.ReturnPopsOrUnderflows := by
  intro s
  refine ⟨rfl, fun j hj => ?_, fun h => takesFault_of_exec rfl (exec_ret_of_zero h)⟩
  have top : s.sp.val - 1 = j.val := by omega
  refine ⟨s.pop, exec_ret_of_ne_zero (by omega), top, ?_, .of_fields⟩
  simp only [State.pop_pc, State.stackAt, top]

/-- A word of family 5 or 9 with `n` other than 0 is of no row (90_conflicts.md C3). -/
theorem decodeWord_nibbles_of_ne {op x y n : BitVec 4} (hop : op = 0x5#4 ∨ op = 0x9#4) (hn : n ≠ 0#4) :
    decodeWord (nibbles op x y n) = .error (.unknownOpcode (nibbles op x y n)) := by
  have hf : opField (nibbles op x y n) = op := by rw [← wordXYN_regOf]; simp
  have hg : nField (nibbles op x y n) = n := by rw [← wordXYN_regOf]; simp
  rcases hop with rfl | rfl <;> simp [decodeWord, hf, hg, hn]

/-- Settles O17: all four are one `skipIf`, whose test differs. -/
theorem skipsPassOverOneWord : Obligations.SkipsPassOverOneWord := by
  intro x y n nn s
  refine ⟨⟨decodeWord_nibblesByte rfl rfl, goesTo_skipIf rfl (by simp)⟩,
    ⟨decodeWord_nibblesByte rfl rfl, goesTo_skipIf rfl (by simp)⟩,
    ⟨decodeWord_nibbles rfl rfl, goesTo_skipIf rfl (by simp)⟩,
    ⟨decodeWord_nibbles rfl rfl, goesTo_skipIf rfl (by simp)⟩, fun hn => ?_⟩
  exact ⟨decodeWord_nibbles_of_ne (.inl rfl) hn, decodeWord_nibbles_of_ne (.inr rfl) hn⟩

/-! ## Register arithmetic (42_alu.md) -/

/-- Settles O19: one plain register write. -/
theorem assignCopiesARegister : Obligations.AssignCopiesARegister :=
  fun _ _ _ => ⟨decodeWord_nibbles rfl rfl, setsReg_of_exec_eq_writeReg rfl⟩

/-- Settles O20: the three operations act bit by bit, and are idempotent or cancel. -/
theorem logicActsBitByBitWithoutFlag : Obligations.LogicActsBitByBitWithoutFlag := by
  intro x y s
  refine ⟨⟨decodeWord_nibbles rfl rfl, _, setsReg_of_exec_eq_writeReg rfl, fun j => BitVec.getLsbD_or, ?_⟩,
    ⟨decodeWord_nibbles rfl rfl, _, setsReg_of_exec_eq_writeReg rfl, fun j => BitVec.getLsbD_and, ?_⟩,
    ⟨decodeWord_nibbles rfl rfl, _, setsReg_of_exec_eq_writeReg rfl, fun j => BitVec.getLsbD_xor, ?_⟩⟩
  · rintro rfl; exact BitVec.or_self
  · rintro rfl; exact BitVec.and_self
  · rintro rfl; exact BitVec.xor_self

theorem flagByte_decide (p : Prop) [Decidable p] : flagByte (decide p) = if p then 1#8 else 0#8 := by
  simp [flagByte]

/-- Settles O21: the byte sum wraps by itself, and the carry is that of the exact sum. -/
theorem addSetsSumThenCarry : Obligations.AddSetsSumThenCarry := by
  intro x y s
  have h := setsRegAndFlag_of_exec_eq (i := .addReg (regOf x) (regOf y)) (s := s) rfl (flagByte_decide _)
  rw [byte_add_eq_ofNat_mod] at h
  exact ⟨decodeWord_nibbles rfl rfl, h⟩

/-- Byte subtraction is subtraction modulo 256 (R177). -/
theorem byte_sub_eq_ofInt (a b : Byte) : a - b = BitVec.ofInt 8 (a.toNat - b.toNat) := by
  rw [Int.sub_eq_add_neg, BitVec.ofInt_add, BitVec.ofInt_neg, BitVec.ofInt_natCast, BitVec.ofInt_natCast,
    BitVec.ofNat_toNat, BitVec.ofNat_toNat, BitVec.setWidth_eq, BitVec.setWidth_eq, BitVec.sub_eq_add_neg]

/-- Settles O22: byte subtraction wraps by itself, and the flag is that of the exact comparison. -/
theorem subtractsFlagStrictlyGreater : Obligations.SubtractsFlagStrictlyGreater := by
  intro x y s
  have hsub := setsRegAndFlag_of_exec_eq (i := .sub (regOf x) (regOf y)) (s := s) rfl (flagByte_decide _)
  have hsubn := setsRegAndFlag_of_exec_eq (i := .subn (regOf x) (regOf y)) (s := s) rfl (flagByte_decide _)
  rw [byte_sub_eq_ofInt] at hsub hsubn
  exact ⟨⟨decodeWord_nibbles rfl rfl, hsub⟩, decodeWord_nibbles rfl rfl, hsubn⟩

theorem shiftOperand_toNat (s : State) (x y : Reg) :
    (s.shiftOperand x y).toNat = if s.cfg.shiftSource = .vx then (s.reg x).toNat else (s.reg y).toNat := by
  rw [State.shiftOperand]
  cases s.cfg.shiftSource <;> rfl

theorem byte_ushiftRight_one (b : Byte) : b >>> 1 = BitVec.ofNat 8 (b.toNat / 2) := by
  apply BitVec.eq_of_toNat_eq
  simp only [BitVec.toNat_ushiftRight, BitVec.toNat_ofNat, Nat.shiftRight_eq_div_pow]
  omega

theorem byte_shiftLeft_one (b : Byte) : b <<< 1 = BitVec.ofNat 8 (2 * b.toNat % 256) := by
  apply BitVec.eq_of_toNat_eq
  simp only [BitVec.toNat_shiftLeft, BitVec.toNat_ofNat, Nat.shiftLeft_eq]
  omega

theorem flagByte_lowBitOf (b : Byte) : flagByte (lowBitOf b) = BitVec.ofNat 8 (b.toNat % 2) := by
  rw [lowBitOf, BitVec.getLsbD, Nat.testBit_zero, flagByte_decide]
  rcases Nat.mod_two_eq_zero_or_one b.toNat with h | h <;> simp [h]

theorem flagByte_highBitOf (b : Byte) : flagByte (highBitOf b) = BitVec.ofNat 8 (b.toNat / 128) := by
  have := b.isLt
  have hb : b.toNat / 128 = 0 ∨ b.toNat / 128 = 1 := by omega
  rw [highBitOf, BitVec.getLsbD, Nat.testBit_eq_decide_div_mod_eq, flagByte_decide]
  rcases hb with h | h <;> simp [h]

/-- Settles O23: the shifts halve and double the number, and the bit shifted out is a remainder or a quotient. -/
theorem shiftsFollowTheSourceParameter : Obligations.ShiftsFollowTheSourceParameter := by
  intro x y s b
  have hb : (s.shiftOperand (regOf x) (regOf y)).toNat = b := shiftOperand_toNat s _ _
  have hshr := setsRegAndFlag_of_exec_eq (i := .shr (regOf x) (regOf y)) (s := s) rfl (flagByte_lowBitOf _)
  have hshl := setsRegAndFlag_of_exec_eq (i := .shl (regOf x) (regOf y)) (s := s) rfl (flagByte_highBitOf _)
  rw [byte_ushiftRight_one, hb] at hshr
  rw [byte_shiftLeft_one, hb] at hshl
  exact ⟨⟨decodeWord_nibbles rfl rfl, hshr⟩, decodeWord_nibbles rfl rfl, hshl⟩

/-! ## The random byte (R181; 92 D15) -/

/-- The state after `Cxnn`. -/
theorem exec_rnd (x : Reg) (nn : Byte) (s : State) :
    exec (.rnd x nn) s = .next (s.takeDraw.setReg x (s.drawn &&& nn)).advance := rfl

theorem reg_after_rnd (x : Reg) (nn : Byte) (s : State) (r : Reg) :
    (s.takeDraw.setReg x (s.drawn &&& nn)).advance.reg r = if r = x then s.drawn &&& nn else s.reg r :=
  s.takeDraw.reg_setReg x r _

theorem drawn_of_given {s : State} {b : Byte} (h : s.rndIn = some b) : s.drawn = b := by
  rw [State.drawn, h, Option.getD_some]

/-- Settles O24: whatever the draw is, masking leaves no bit outside `nn`. -/
theorem randomByteIsMasked : Obligations.RandomByteIsMasked := by
  intro x nn s
  refine ⟨decodeWord_nibblesByte rfl rfl, _, exec_rnd (regOf x) nn s, fun r hr => ?_, fun b hb => ?_, ?_, rfl,
    .of_fields⟩
  · rw [reg_after_rnd, if_neg hr]
  · rw [reg_after_rnd, if_pos rfl, drawn_of_given hb]
  · rw [reg_after_rnd, if_pos rfl, BitVec.and_assoc, BitVec.and_not_self]
    exact BitVec.and_zero

/-- Settles O25: the draw given to the cycle is the one that `Cxnn` takes. -/
theorem cycleGivesItsDrawToRandom : Obligations.CycleGivesItsDrawToRandom := by
  intro x nn b s hs hp hw
  have hruns : Runs (s.setRndIn (some b)) (.rnd (regOf x) nn) :=
    ⟨hs, hp, (congrArg decodeWord hw).trans (decodeWord_nibblesByte rfl rfl)⟩
  have he := exec_rnd (regOf x) nn (s.setRndIn (some b))
  have hresult : cycleResult (s.setRndIn (some b)) = .next .executed := by
    rw [cycleResult_of_runs hruns he, State.advance_status, State.setReg_status, State.takeDraw_status,
      State.setRndIn_status, hs]
    rfl
  refine ⟨_, perform_cycle ((step_of_runs hruns).trans he) hresult, ?_, fun r hr => ?_, rfl, .of_fields⟩
  · exact (reg_after_rnd _ _ _ _).trans (if_pos rfl)
  · exact (reg_after_rnd _ _ _ _).trans (if_neg hr)

/-! ## The address register (43_index_memory.md section 1) -/

/-- Settles O27: the flag is written last and reads the exact sum. -/
theorem addToIndexFlagsPastTheLastAddress : Obligations.AddToIndexFlagsPastTheLastAddress := by
  intro x s
  refine ⟨decodeWord_nibblesByte rfl rfl, _, rfl, BitVec.toNat_ofNat _ _, fun r => ?_, rfl, .of_fields⟩
  rw [← flagByte_decide]
  exact (s.setI _).reg_setFlag _ r

/-- Settles O28: five times a byte fits 16 bits. -/
theorem glyphAddressIsFiveTimes : Obligations.GlyphAddressIsFiveTimes := by
  intro x s
  refine ⟨decodeWord_nibblesByte rfl rfl, _, rfl, ?_, rfl, onlyChanged_setI_advance s _⟩
  have := (s.reg (regOf x)).isLt
  exact (BitVec.toNat_ofNat _ _).trans (Nat.mod_eq_of_lt (by omega))

/-! ## The keypad (45_timers_keys.md) -/

section

variable {s : State} {x : Reg}

theorem withKey_of_eq {i : Instr} {k : Bool → Result} {j : Fin 16} (h : (s.reg x).toNat = j.val) :
    withKey x i s k = k (s.key j) := by
  rw [withKey_eq, dif_pos (h.trans_lt j.isLt)]
  exact congrArg (fun j => k (s.key j)) (Fin.ext h)

theorem withKey_of_gt {i : Instr} {k : Bool → Result} (h : 15 < (s.reg x).toNat) :
    withKey x i s k = .next (s.faulted i .invalidKeyIndex (s.reg x).toNat) := by
  rw [withKey_eq, dif_neg (by omega)]
  rfl

end

/-- Settles O37: both skips go through one key check. -/
theorem keySkipsTestTheNamedKey : Obligations.KeySkipsTestTheNamedKey := by
  intro x s
  refine ⟨decodeWord_nibblesByte rfl rfl, decodeWord_nibblesByte rfl rfl, fun k hk => ?_, fun h => ?_⟩
  · exact ⟨goesTo_skipIf ((exec_skp _ s).trans (withKey_of_eq hk)) rfl,
      goesTo_skipIf ((exec_sknp _ s).trans (withKey_of_eq hk)) (by cases s.key k <;> rfl)⟩
  · exact ⟨takesFault_of_exec (wordXNN_regOf 0xE#4 x 0x9E#8) ((exec_skp _ s).trans (withKey_of_gt h)),
      takesFault_of_exec (wordXNN_regOf 0xE#4 x 0xA1#8) ((exec_sknp _ s).trans (withKey_of_gt h))⟩

/-- A key that is down below only keys that are up is the lowest one down. -/
theorem lowestKeyDown_of_down {s : State} {k : Fin 16} (hk : s.key k = true)
    (hlow : ∀ j, j < k → s.key j = false) : s.lowestKeyDown = some k := by
  cases h : s.lowestKeyDown with
  | none => simp [s.lowestKeyDown_eq_none.mp h k] at hk
  | some j =>
    obtain ⟨hj, hjlow⟩ := s.lowestKeyDown_eq_some j h
    have notLt : ¬ j < k := fun hlt => by simp [hlow j hlt] at hj
    have notGt : ¬ k < j := fun hlt => by simp [hjlow k hlt] at hk
    rw [le_antisymm (not_lt.mp notGt) (not_lt.mp notLt)]

/-- Settles O38: the search for the lowest key finds nothing, or the key named. -/
theorem keyWaitTakesTheLowestKeyDown : Obligations.KeyWaitTakesTheLowestKeyDown := by
  intro x s
  refine ⟨decodeWord_nibblesByte rfl rfl, fun h => ?_, fun k hk hlow => ?_⟩
  · exact exec_ldVxK_of_none _ (s.lowestKeyDown_eq_none.mpr h)
  · exact setsReg_of_exec_eq_writeReg (exec_ldVxK_of_some _ (lowestKeyDown_of_down hk hlow))

/-- Settles O39: the result tells a wait from a completed `Fx0A` by the search for a key. -/
theorem parkedCoreReturnsWaiting : Obligations.ParkedCoreReturnsWaiting := by
  intro x s hs hp hw
  have hruns : Runs s (.ldVxK (regOf x)) := ⟨hs, hp, by rw [hw]; exact decodeWord_nibblesByte rfl rfl⟩
  refine ⟨fun hup => ?_, fun ⟨k, hk⟩ => ?_⟩
  · have he := exec_ldVxK_of_none (regOf x) (s.lowestKeyDown_eq_none.mpr hup)
    refine ⟨(step_of_runs hruns).trans he, (cycleResult_of_runs hruns he).trans ?_⟩
    simp [resultOfStatus, hs, waits, s.lowestKeyDown_eq_none.mpr hup]
  · cases h : s.lowestKeyDown with
    | none => simp [s.lowestKeyDown_eq_none.mp h k] at hk
    | some j =>
      refine (cycleResult_of_runs hruns (exec_ldVxK_of_some _ h)).trans ?_
      simp [resultOfStatus, hs, waits, h]

/-! ## The timers (45_timers_keys.md section 3; R319, R320) -/

/-- After `k` ticks each timer holds what it held less `k`, and the tick that takes `ST` from 1 to 0 is the one
that gave the cue. -/
theorem performAll_ticks (k : Nat) (s : State) :
    ∃ u, performAll (List.replicate k .tick) s =
        .next (u, (List.range k).map fun j => .cue (decide (s.st.toNat = j + 1))) ∧
      u.dt.toNat = s.dt.toNat - k ∧ u.st.toNat = s.st.toNat - k := by
  induction k generalizing s with
  | zero => exact ⟨s, rfl, rfl, rfl⟩
  | succ k ih =>
    obtain ⟨u, hu, hdt, hst⟩ := ih ((s.setDt (tickTimer s.dt)).setSt (tickTimer s.st))
    simp only [State.setSt_dt, State.setDt_dt, State.setSt_st, tickTimer_toNat] at hu hdt hst
    have cue (j : Nat) : s.st.toNat - 1 = j + 1 ↔ s.st.toNat = j + 1 + 1 := by omega
    refine ⟨u, ?_, by omega, by omega⟩
    rw [List.replicate_succ, performAll_cons (perform_tick s) hu, List.range_succ_eq_map, List.map_cons,
      List.map_map]
    simp only [cue]
    rfl

/-- Settles O40: one write to `DT`, then an induction on the ticks. -/
theorem delayTimerReadsAndCountsDown : Obligations.DelayTimerReadsAndCountsDown := by
  intro x s
  refine ⟨⟨decodeWord_nibblesByte rfl rfl, setsReg_of_exec_eq_writeReg rfl⟩, decodeWord_nibblesByte rfl rfl,
    (s.setDt (s.reg (regOf x))).advance, rfl, rfl, rfl, .of_fields, fun k => ?_⟩
  obtain ⟨u, hu, hdt, -⟩ := performAll_ticks k (s.setDt (s.reg (regOf x))).advance
  exact ⟨u, _, hu, hdt⟩

/-- Settles O41: one write to `ST`, then an induction on the ticks. -/
theorem soundTimerSetEmitsNoCue : Obligations.SoundTimerSetEmitsNoCue := by
  intro x s
  refine ⟨decodeWord_nibblesByte rfl rfl, (s.setSt (s.reg (regOf x))).advance, rfl, rfl, rfl, .of_fields,
    fun k => ?_⟩
  obtain ⟨u, hu, -, hst⟩ := performAll_ticks k (s.setSt (s.reg (regOf x))).advance
  exact ⟨u, hu, hst⟩

end Sys2Proof.Machine
end

section
/-! PROOFS. The memory transfers and the sprite draw (43_index_memory.md section 2; 44_display.md section 3;
20_memory.md section 5): the bytes they move, the pixels they flip, and the faults of their range check. -/

namespace Sys2Proof.Machine

/-! ## The range check of an instruction (R73) -/

section

variable {i : Instr} {s : State} {base n : Nat} {k : Result}

theorem withRange_of_inRange (h : n = 0 ∨ base + n ≤ 4096) : withRange base n i s k = k := by
  rw [withRange_eq, if_pos h]

theorem withRange_of_outOfRange (hn : n ≠ 0) (h : 4096 < base + n) :
    withRange base n i s k = .next (s.faulted i .memoryFault (max base 4096)) := by
  rw [withRange_eq, if_neg (by omega)]
  rfl

end

/-! ## The memory instructions, once (R213 to R215, R242) -/

theorem exec_ldBVx (x : Reg) (s : State) :
    exec (.ldBVx x) s =
      withRange s.i.toNat 3 (.ldBVx x) s (.next (s.setBytes s.i.toNat (bcdDigits (s.reg x))).advance) := rfl

theorem exec_ldMemVx (x : Reg) (s : State) :
    exec (.ldMemVx x) s =
      withRange s.i.toNat (x.val + 1) (.ldMemVx x) s
        (.next ((s.setBytes s.i.toNat (s.regsUpTo x)).setI (s.indexAfter x)).advance) := rfl

theorem exec_ldVxMem (x : Reg) (s : State) :
    exec (.ldVxMem x) s =
      withRange s.i.toNat (x.val + 1) (.ldVxMem x) s
        (.next ((s.setRegs (s.loadedRegs s.i.toNat (x.val + 1))).setI (s.indexAfter x)).advance) := rfl

theorem exec_drw (x y : Reg) (n : Nat) (s : State) :
    exec (.drw x y n) s =
      withRange s.i.toNat n (.drw x y n) s
        (.next (s.finishDraw (s.drawSprite (s.reg x).toNat (s.reg y).toNat s.i.toNat n))) := rfl

/-! ## Storing the decimal digits (R213) -/

theorem bcdDigits_toNat (b : Byte) :
    ((bcdDigits b).getD 0 0#8).toNat = b.toNat / 100 ∧ ((bcdDigits b).getD 1 0#8).toNat = b.toNat / 10 % 10 ∧
      ((bcdDigits b).getD 2 0#8).toNat = b.toNat % 10 := by
  have := b.isLt
  simp only [bcdDigits, List.getD_cons_zero, List.getD_cons_succ, BitVec.toNat_ofNat]
  omega

theorem onlyChanged_setBytes_advance (s : State) (base : Nat) (bs : List Byte) :
    OnlyChanged [.mem, .pc] s (s.setBytes base bs).advance := by
  obtain ⟨m, hm, -⟩ := s.setBytes_fields base bs
  rw [hm]
  exact .of_fields

/-- Settles O29: a run of three byte writes, behind the range check. -/
theorem bcdStoresThreeDigitsOrFaults : Obligations.BcdStoresThreeDigitsOrFaults := by
  intro x s
  refine ⟨decodeWord_nibblesByte rfl rfl, fun h => ?_, fun h => ?_⟩
  · obtain ⟨hundreds, tens, units⟩ := bcdDigits_toNat (s.reg (regOf x))
    have fits : s.i.toNat + (bcdDigits (s.reg (regOf x))).length ≤ 4096 := h
    have digit (j : Nat) (hj : j < 3) := byteAt_setBytes_add (s := s) fits (j := j) hj
    refine ⟨_, (exec_ldBVx _ s).trans (withRange_of_inRange (.inr h)),
      (congrArg BitVec.toNat (digit 0 (by decide))).trans hundreds,
      (congrArg BitVec.toNat (digit 1 (by decide))).trans tens,
      (congrArg BitVec.toNat (digit 2 (by decide))).trans units,
      fun a ha => byteAt_setBytes_of_notMem fits fun hin => ha ⟨hin.1, Nat.le_of_lt_succ hin.2⟩, ?_,
      onlyChanged_setBytes_advance s _ _⟩
    rw [State.advance_pc, pc_setBytes]
  · exact takesFault_of_exec (wordXNN_regOf 0xF#4 x 0x33#8)
      ((exec_ldBVx _ s).trans (withRange_of_outOfRange (by decide) (by omega)))

/-! ## Storing and loading registers (R214, R215) -/

/-- `I + x + 1` does not wrap when the bytes are in range. -/
theorem indexAfter_toNat {s : State} {x : Reg} (h : s.i.toNat + x.val < 4096) :
    (s.indexAfter x).toNat = s.i.toNat + x.val + 1 :=
  (BitVec.toNat_ofNat _ _).trans (Nat.mod_eq_of_lt (by omega))

section

variable {s : State} {x : Reg}

theorem exec_ldMemVx_of_inRange (h : s.i.toNat + x.val < 4096) :
    exec (.ldMemVx x) s = .next ((s.setBytes s.i.toNat (s.regsUpTo x)).setI (s.indexAfter x)).advance :=
  (exec_ldMemVx x s).trans (withRange_of_inRange (.inr h))

theorem exec_ldVxMem_of_inRange (h : s.i.toNat + x.val < 4096) :
    exec (.ldVxMem x) s =
      .next ((s.setRegs (s.loadedRegs s.i.toNat (x.val + 1))).setI (s.indexAfter x)).advance :=
  (exec_ldVxMem x s).trans (withRange_of_inRange (.inr h))

theorem regsUpTo_fit (h : s.i.toNat + x.val < 4096) : s.i.toNat + (s.regsUpTo x).length ≤ 4096 := by
  rw [s.regsUpTo_length]
  omega

/-- The bytes that `Fx55` stores. -/
theorem byteAt_storedRegs (h : s.i.toNat + x.val < 4096) {j : Reg} (hj : j ≤ x) :
    (s.setBytes s.i.toNat (s.regsUpTo x)).byteAt (s.i.toNat + j.val) = s.reg j := by
  have hlen : j.val < (s.regsUpTo x).length := by
    rw [s.regsUpTo_length]
    exact Nat.lt_succ_of_le hj
  rw [byteAt_setBytes_add (regsUpTo_fit h) hlen, s.regsUpTo_getD x j hj]

/-- The registers that `Fx65` leaves. -/
theorem reg_loadedRegs (r : Reg) (w : Word) :
    ((s.setRegs (s.loadedRegs s.i.toNat (x.val + 1))).setI w).advance.reg r =
      if r ≤ x then s.byteAt (s.i.toNat + r.val) else s.reg r := by
  refine (s.loadedRegs_get s.i.toNat (x.val + 1) r.val r.isLt).trans ?_
  simp only [Nat.lt_succ_iff, Fin.le_def]
  rfl

end

/-- Settles O30: a run of `x + 1` byte writes, behind the range check. -/
theorem storeRegistersWritesV0ToVx : Obligations.StoreRegistersWritesV0ToVx := by
  intro x s
  refine ⟨decodeWord_nibblesByte rfl rfl, fun h => ?_, fun h => ?_⟩
  · have outside {a : Nat} (ha : ¬ (s.i.toNat ≤ a ∧ a ≤ s.i.toNat + x.toNat)) :
        ¬ (s.i.toNat ≤ a ∧ a < s.i.toNat + (s.regsUpTo (regOf x)).length) := by
      rw [s.regsUpTo_length, regOf_val]
      omega
    refine ⟨_, exec_ldMemVx_of_inRange h, fun j => byteAt_storedRegs h,
      fun a ha => byteAt_setBytes_of_notMem (regsUpTo_fit h) (outside ha), indexAfter_toNat h, ?_, ?_⟩
    · simp only [State.advance_pc, State.setI_pc, pc_setBytes]
    · obtain ⟨m, hm, -⟩ := s.setBytes_fields s.i.toNat (s.regsUpTo (regOf x))
      rw [hm]
      exact .of_fields
  · exact takesFault_of_exec (wordXNN_regOf 0xF#4 x 0x55#8)
      ((exec_ldMemVx _ s).trans (withRange_of_outOfRange (Nat.succ_ne_zero _) (Nat.lt_succ_of_le h)))

/-- Settles O31: `x + 1` byte reads, behind the range check. -/
theorem loadRegistersReadsV0ToVx : Obligations.LoadRegistersReadsV0ToVx := by
  intro x s
  refine ⟨decodeWord_nibblesByte rfl rfl, fun h => ?_, fun h => ?_⟩
  · exact ⟨_, exec_ldVxMem_of_inRange h, fun r => reg_loadedRegs r _, indexAfter_toNat h, rfl, .of_fields⟩
  · exact takesFault_of_exec (wordXNN_regOf 0xF#4 x 0x65#8)
      ((exec_ldVxMem _ s).trans (withRange_of_outOfRange (Nat.succ_ne_zero _) (Nat.lt_succ_of_le h)))

/-- Settles O32: the load reads the bytes that the store wrote. -/
theorem storedRegistersLoadBack : Obligations.StoredRegistersLoadBack := by
  intro x s t u v h ht hu
  cases ht.symm.trans (exec_ldMemVx_of_inRange h)
  have hui : u.i = s.i := by rw [hu]; rfl
  have hu' : u.i.toNat + x.val < 4096 := by rw [hui]; exact h
  refine ⟨_, exec_ldVxMem_of_inRange hu', fun r hr => ?_⟩
  rw [reg_loadedRegs, if_pos hr, hui, hu]
  exact byteAt_storedRegs h hr

/-- Settles O33: the fetch at `I + j` reads two neighbouring stored bytes. -/
theorem storedWordIsTheNextFetched : Obligations.StoredWordIsTheNextFetched := by
  intro x j k s t hjk hk h ht
  cases ht.symm.trans (exec_ldMemVx_of_inRange h)
  have hkx : k.val ≤ x.val := hk
  have hj : j ≤ x := by rw [Fin.le_def]; omega
  have hpc : (s.i + BitVec.ofNat 16 j.val).toNat = s.i.toNat + j.val := by
    rw [BitVec.toNat_add, BitVec.toNat_ofNat]
    omega
  rw [State.fetch_eq, State.setPc_pc, hpc, if_pos (by omega), Nat.add_assoc, hjk]
  exact congrArg Except.ok (congrArg₂ wordOfBytes (byteAt_storedRegs h hj) (byteAt_storedRegs h hk))

/-! ## Drawing (R242 to R244) -/

/-- The closed form of the drawing loop speaks of the same pixels as the statements. -/
theorem covers_iff_spriteCovers (s : State) (cx cy : Byte) (n : Nat) (r : Fin 32) (c : Fin 64) :
    s.Covers cx.toNat cy.toNat s.i.toNat n r c ↔ SpriteCovers s cx cy n r c := by
  simp only [State.Covers, RowCovers, SpriteCovers, Fin.ext_iff, rowAt, colAt]
  constructor
  · rintro ⟨b, hb, k, hk, hbit, hr, hc⟩
    exact ⟨b, k, hb, hk, hbit, hr, hc⟩
  · rintro ⟨b, k, hb, hk, hbit, hr, hc⟩
    exact ⟨b, hb, k, hk, hbit, hr, hc⟩

/-- The state after `Dxyn`, when it does not fault. -/
def State.afterDraw (s : State) (x y : Reg) (n : Nat) : State :=
  s.finishDraw (s.drawSprite (s.reg x).toNat (s.reg y).toNat s.i.toNat n)

theorem flagByte_eq_one_iff (f : Bool) : flagByte f = 1#8 ↔ f = true := by cases f <;> decide

section

variable {s : State} {x y : Reg} {n : Nat}

theorem exec_drw_of_inRange (h : n = 0 ∨ s.i.toNat + n ≤ 4096) :
    exec (.drw x y n) s = .next (s.afterDraw x y n) :=
  (exec_drw x y n s).trans (withRange_of_inRange h)

theorem onlyChanged_afterDraw : OnlyChanged [.fb, .v, .dirty, .pc] s (s.afterDraw x y n) := by
  dsimp only [State.afterDraw, State.finishDraw]
  exact .of_fields

/-- A draw flips the covered pixels (R242). -/
theorem pixel_afterDraw (hn : n < 16) (r : Fin 32) (c : Fin 64) :
    (s.afterDraw x y n).pixel r c ≠ s.pixel r c ↔ SpriteCovers s (s.reg x) (s.reg y) n r c :=
  ((s.drawSprite_spec _ _ _ n (by omega)).1 r c).trans (covers_iff_spriteCovers s _ _ n r c)

/-- A draw writes no register but VF. -/
theorem reg_afterDraw {r : Reg} (hr : r ≠ VF) : (s.afterDraw x y n).reg r = s.reg r :=
  (((s.setFb _).setDirty true).reg_setFlag _ r).trans (if_neg hr)

theorem flag_afterDraw :
    (s.afterDraw x y n).reg VF =
      flagByte (s.drawSprite (s.reg x).toNat (s.reg y).toNat s.i.toNat n).collide :=
  (((s.setFb _).setDirty true).reg_setFlag _ VF).trans (if_pos rfl)

/-- A draw collides when a covered pixel was lit (R242). -/
theorem collide_afterDraw (hn : n < 16) :
    (s.drawSprite (s.reg x).toNat (s.reg y).toNat s.i.toNat n).collide = true ↔
      ∃ r c, SpriteCovers s (s.reg x) (s.reg y) n r c ∧ s.pixel r c = true := by
  rw [(s.drawSprite_spec _ _ _ n (by omega)).2]
  simp only [covers_iff_spriteCovers]

end

/-- Settles O35: the closed form of the drawing loop, for at most fifteen rows. -/
theorem drawFlipsExactlyTheSpritePixels : Obligations.DrawFlipsExactlyTheSpritePixels := by
  intro x y n s
  have hn := n.isLt
  refine ⟨decodeWord_nibbles (decide_eq_true hn) rfl, fun h => ?_, fun ⟨hn0, h⟩ => ?_⟩
  · have inRange : n.toNat = 0 ∨ s.i.toNat + n.toNat ≤ 4096 := h.imp_left (congrArg BitVec.toNat)
    refine ⟨_, exec_drw_of_inRange inRange, pixel_afterDraw hn, fun hlit => ?_, fun hdark => ?_,
      fun r hr => reg_afterDraw hr, rfl, rfl, onlyChanged_afterDraw⟩
    · rw [flag_afterDraw, (collide_afterDraw hn).mpr hlit]
      rfl
    · have noCollision : ¬ ∃ r c, SpriteCovers s (s.reg (regOf x)) (s.reg (regOf y)) n.toNat r c ∧
          s.pixel r c = true := by
        rintro ⟨r, c, hcov, hlit⟩
        exact absurd (hlit.symm.trans (hdark r c hcov)) (by decide)
      rw [flag_afterDraw, Bool.eq_false_iff.mpr fun hc => noCollision ((collide_afterDraw hn).mp hc)]
      rfl
  · have hn0' : n.toNat ≠ 0 := fun e => hn0 (BitVec.eq_of_toNat_eq e)
    exact takesFault_of_exec (wordXYN_regOf 0xD#4 x y n)
      ((exec_drw _ _ _ s).trans (withRange_of_outOfRange hn0' h))

/-- Two flips of the same pixels cancel. -/
theorem eq_of_changes_twice {a b c : Bool} {p : Prop} (h1 : b ≠ a ↔ p) (h2 : c ≠ b ↔ p) : c = a := by
  by_cases hp : p
  · exact Bool.eq_not_of_ne (h2.mpr hp) |>.trans (by rw [Bool.eq_not_of_ne (h1.mpr hp), Bool.not_not])
  · exact (not_ne_iff.mp (mt h2.mp hp)).trans (not_ne_iff.mp (mt h1.mp hp))

/-- Settles O36: the second draw covers the same pixels, each of which the first one flipped. -/
theorem drawTwiceRestoresTheScreen : Obligations.DrawTwiceRestoresTheScreen := by
  intro x y n s t hn h ht hx hy
  cases ht.symm.trans (exec_drw_of_inRange h)
  have flipped := pixel_afterDraw (s := s) (x := x) (y := y) hn
  have flippedAgain (r : Fin 32) (c : Fin 64) : ((s.afterDraw x y n).afterDraw x y n).pixel r c ≠
      (s.afterDraw x y n).pixel r c ↔ SpriteCovers s (s.reg x) (s.reg y) n r c := by
    rw [pixel_afterDraw hn, hx, hy]
    rfl
  refine ⟨_, exec_drw_of_inRange h, fun r c => eq_of_changes_twice (flipped r c) (flippedAgain r c), ?_⟩
  rw [flag_afterDraw, flagByte_eq_one_iff, collide_afterDraw hn, hx, hy]
  refine exists_congr fun r => exists_congr fun c => and_congr_right fun hcov => ?_
  have hflip : (s.afterDraw x y n).pixel r c = !s.pixel r c := Bool.eq_not_of_ne ((flipped r c).mpr hcov)
  rw [hflip, Bool.not_eq_true']

end Sys2Proof.Machine
end
